-- ==== Sys2Proof/Word.lean ====
section
/-! DEFINITION. The widths of the machine (00_scope R7). -/

namespace Sys2Proof

/-- A data-space byte, a register, an opcode or operand byte, and also an 8-bit data-space address (R7). -/
abbrev Byte := BitVec 8

/-- A 12-bit program-space address: the program counter and a stack level (R7). -/
abbrev Addr := BitVec 12

end Sys2Proof
end

