-- ==== Sys2Proof/Config.lean ====
section
/-! DEFINITION. What a device fixes (the named parameters of 00_scope R8, `Platform` of 20_memory R66
as plain data), and the free values of the model. -/

namespace Sys2Proof

/-- One flag for each interrupt source of the core: the NMI (#0) and interrupts #1 to #4
(60_exceptions R261). Used for the waiting requests and for the acknowledge behaviour. -/
structure Requests where
  nmi  : Bool
  irq1 : Bool
  irq2 : Bool
  irq3 : Bool
  irq4 : Bool
deriving DecidableEq, Repr

/-- No source. -/
def Requests.none : Requests := ⟨false, false, false, false, false⟩

/-- Every source. -/
def Requests.all : Requests := ⟨true, true, true, true, true⟩

/-- What the seventh nested push does to level 6 (`STACK_OVERFLOW` of 00_scope R8; 10_state R27,
92_eei D4, 93 U2). -/
inductive StackOverflow where
  /-- level 6 takes the new value: the spec's default -/
  | overwrite
  /-- level 6 keeps its old value -/
  | keep
  /-- the model stops with the fault `stackOverflow` -/
  | stop
deriving DecidableEq, Repr

/-- What answers at a data-space address outside A, X, Y, V, W (20_memory R61 to R68). -/
inductive DataKind where
  /-- a plain byte that keeps what is written -/
  | ram
  /-- a byte of RAM that each page selected by the data RAM banking register has of its own (R64) -/
  | pagedRam
  /-- a byte of program ROM seen through the data ROM window (R65) -/
  | romWindow
  /-- a peripheral register the spec does not describe (R67, R78) -/
  | device
  /-- the data RAM banking register (R64) -/
  | ramBankReg
  /-- the data ROM window register (R65) -/
  | windowReg
  /-- the program ROM banking register (R69) -/
  | progBankReg
  /-- the interrupt option register (60_exceptions R263) -/
  | irqOptionReg
  /-- marked NOT IMPLEMENTED or RESERVED (R63, 93 U6) -/
  | absent
deriving DecidableEq, Repr

/-- A run of data-space addresses of one kind, both ends included. -/
structure Region where
  lo   : Byte
  hi   : Byte
  kind : DataKind
deriving DecidableEq, Repr

/-- The parameters of one device. The manual leaves all of them to the individual data sheets
(20_memory R66, 92_eei D2), so every statement of the package holds for each of their values.
The tables `ramPages`, `windowBlocks` and `progPages` stand for the functions from a register's value to
what it selects; a value past a table's end selects 0. -/
structure Config where
  /-- `BT_BASE`, added to the opcode address in JRR and JRS (30_encoding R115) -/
  btBase : Addr
  /-- `STACK_OVERFLOW` (10_state R27) -/
  stackOverflow : StackOverflow
  /-- the data map; the first region that holds an address gives its kind, no region means absent -/
  dataMap : List Region
  /-- the page, of RAM or of I/O, that each value of the data RAM banking register puts at 00h to 3Fh
  (R64) -/
  ramPages : List Nat
  /-- the data map of 00h to 3Fh in each of those pages, by page number; a page past the list's end has
  the map of `dataMap` (R64) -/
  pageMaps : List (List Region)
  /-- the number of the 64-byte block of the program store that each value of the data ROM window
  register selects (R65) -/
  windowBlocks : List Nat
  /-- the 2K page that each value of the program ROM banking register puts behind 000h to 7FFh (R69) -/
  progPages : List Nat
  /-- the values of the interrupt option register that disable interrupts #1 to #4 (60_exceptions R263) -/
  irqDisabledBy : List Byte
  /-- the sources whose request drops when the core acknowledges it (60_exceptions R262) -/
  edge : Requests
deriving DecidableEq, Repr

/-- Most 2K pages behind the lower half of program space: "2K + 2K·n, 20K Max" (00_scope R6, R8). -/
def Config.maxProgPages : Nat := 9

/-- A region keeps what the spec fixes: RAM paging lies in 00h to 3Fh (R64), the window in 40h to 7Fh
(R65). -/
def Region.wf (r : Region) : Bool :=
  match r.kind with
  | .pagedRam => r.hi.toNat ≤ 0x3F
  | .romWindow => 0x40 ≤ r.lo.toNat && r.hi.toNat ≤ 0x7F
  | .ram | .device | .ramBankReg | .windowReg | .progBankReg | .irqOptionReg | .absent => true

/-- The configuration keeps what the spec fixes of the platform: every region of its maps does (R64, R65),
and there are at most nine program pages (R8). -/
def Config.wf (cfg : Config) : Bool :=
  cfg.dataMap.all Region.wf && cfg.pageMaps.all (fun m => m.all Region.wf)
  && cfg.progPages.all (fun p => p < Config.maxProgPages)

/-- The test platform of 95_test_vectors section 0 (92_eei D2): every data address outside the core is
a plain byte, program space is 4096 flat bytes, interrupts are enabled, an acknowledge drops the
request; `BT_BASE` = 2 and `STACK_OVERFLOW` = overwrite (00_scope R8). -/
def Config.testPlatform : Config where
  btBase := 2
  stackOverflow := .overwrite
  dataMap := [⟨0x00, 0xFF, .ram⟩]
  ramPages := []
  pageMaps := []
  windowBlocks := []
  progPages := []
  irqDisabledBy := []
  edge := .all

/-- The data map of the manual's Figure 2 example device (20_memory R67). The labels of C0h and C1h are
lost; the two are taken as device registers. -/
def Config.figure2Map : List Region :=
  [⟨0x00, 0x3F, .absent⟩, ⟨0x40, 0x7F, .romWindow⟩, ⟨0x84, 0xBF, .ram⟩, ⟨0xC0, 0xC2, .device⟩,
   ⟨0xC3, 0xC3, .absent⟩, ⟨0xC4, 0xC6, .device⟩, ⟨0xC7, 0xC7, .absent⟩, ⟨0xC8, 0xC8, .irqOptionReg⟩,
   ⟨0xC9, 0xC9, .windowReg⟩, ⟨0xCA, 0xCB, .absent⟩, ⟨0xCC, 0xCE, .device⟩, ⟨0xCF, 0xCF, .absent⟩,
   ⟨0xD0, 0xD4, .device⟩, ⟨0xD5, 0xD7, .absent⟩, ⟨0xD8, 0xD8, .device⟩, ⟨0xD9, 0xFE, .absent⟩]

/-- A free byte: nothing is known of its value. Applied to the counter `draws` of the state. -/
opaque Config.freeByte : Nat → Byte

/-- A free flag bit: nothing is known of its value. -/
opaque Config.freeBit : Nat → Bool

/-- A free 12-bit value: nothing is known of it. -/
opaque Config.freeAddr : Nat → Addr

end Sys2Proof
end

