-- ==== Sys2Proof/Machine/State.lean ====
section
/-! DEFINITION. The state of the machine as plain data (10_state R20 to R38), the reasons a step can
stop, and the state right after reset (10_state R37, 70_reset R310). -/

namespace Sys2Proof.Machine

/-- Why the model stops. None is an event of the hardware, which raises no exception (60_exceptions
R260). -/
inductive Fault where
  /-- raised by the illegal opcodes: the opcode at `pc` is one of the twelve of 30_encoding R118, to
  which the spec gives no meaning (R119). Safe. -/
  | illegalOpcode (pc : Addr) (op : Byte)
  /-- raised by CALL and by interrupt entry, only where the configuration says `stop`: the push at `pc`
  finds six levels in use (10_state R27). Safe. -/
  | stackOverflow (pc : Addr)
  /-- raised by the fetch: no program byte is at this program address (20_memory R70). Safe. -/
  | fetchNotImplemented (addr : Addr)
  /-- raised by a data-space read or write: the device marks the location NOT IMPLEMENTED or RESERVED
  (20_memory R63, 93 U6). Safe. -/
  | dataNotImplemented (addr : Byte)
  /-- raised by a data-space write into the data ROM window (20_memory R63, 93 U6). Safe. -/
  | romWrite (addr : Byte)
deriving DecidableEq, Repr

/-- Why the model has no meaning for an instruction. -/
inductive Refusal where
  /-- raised by an arm of `exec` whose instruction has no meaning yet. Safe. -/
  | notModelled (mnemonic : String)
deriving DecidableEq, Repr

/-- The routine level, which selects the flag pair in use (10_state R33). -/
inductive Mode where
  | normal | int | nmi
deriving DecidableEq, Repr

/-- The two values of `nmi_ret`, the mode an NMI interrupted (10_state R33). -/
inductive ReturnMode where
  | normal | int
deriving DecidableEq, Repr

/-- The run state (10_state R35). -/
inductive RunState where
  | running | waiting | stopped
deriving DecidableEq, Repr

/-- One pair of flags, Zero and Carry (10_state R30). -/
structure FlagPair where
  z : Bool
  c : Bool
deriving DecidableEq, Repr

/-- The six levels of the stack; level 1 is the first one filled (10_state R26). -/
structure Stack where
  l1 : Addr
  l2 : Addr
  l3 : Addr
  l4 : Addr
  l5 : Addr
  l6 : Addr
deriving DecidableEq, Repr

/-- The five interrupt sources: the NMI (#0) and #1 to #4 (60_exceptions R261). -/
inductive Source where
  | nmi | irq1 | irq2 | irq3 | irq4
deriving DecidableEq, Repr

/-- The lines into the core: the reset input and the interrupt requests (60_exceptions R262, R264). -/
structure Lines where
  reset    : Bool
  requests : Requests
deriving DecidableEq, Repr

/-- No line asserted. -/
def Lines.quiet : Lines := ⟨false, .none⟩

/-- A byte store: (key, byte) pairs, keys strictly rising. -/
abbrev Memory := List Host.Cell

/-- What the platform does at one instruction boundary: the lines it shows the core, the data-space
bytes its devices change, by store key, and the control registers of R36 they change, `none` for one
left alone (60_exceptions R262, R285; 20_memory R80). -/
structure Inputs where
  lines     : Lines
  writes    : List Host.Cell
  ramBank   : Option Byte := none
  windowSel : Option Byte := none
  progBank  : Option Byte := none
  irqOption : Option Byte := none
deriving DecidableEq, Repr

/-- A call from the core to the platform (20_memory R66). -/
inductive BusEvent where
  /-- `Platform.DataRead(addr)` answered `v` -/
  | read (addr v : Byte)
  /-- `Platform.DataWrite(addr, v)` -/
  | write (addr v : Byte)
  /-- `Platform.IrqAck(n)` -/
  | irqAck (n : Source)
  /-- `Platform.Halt(WAIT)` -/
  | haltWait
  /-- `Platform.Halt(STOP)` -/
  | haltStop
deriving DecidableEq, Repr

/-- The whole state. -/
structure State where
  /-- A (10_state R20) -/
  a : Byte
  /-- X (R21) -/
  x : Byte
  /-- Y (R21) -/
  y : Byte
  /-- V (R21) -/
  v : Byte
  /-- W (R21) -/
  w : Byte
  /-- the program counter: the address of the next instruction's opcode byte (R24) -/
  pc : Addr
  /-- the number of values stacked (R26) -/
  sp : Fin 7
  /-- the stack levels (R26) -/
  stk : Stack
  /-- ZN, CN (R30) -/
  normalFlags : FlagPair
  /-- ZI, CI (R30) -/
  intFlags : FlagPair
  /-- ZM, CM (R30) -/
  nmiFlags : FlagPair
  /-- the routine level (R33) -/
  mode : Mode
  /-- the mode that the last NMI interrupted (R33) -/
  nmiRet : ReturnMode
  /-- running, WAIT or STOP (R35) -/
  run : RunState
  /-- the bytes of data space outside the core (20_memory R62) -/
  data : Memory
  /-- the bytes of program space (20_memory R70) -/
  prog : Memory
  /-- the data RAM banking register (R36) -/
  ramBank : Byte
  /-- the data ROM window register (R36) -/
  windowSel : Byte
  /-- the program ROM banking register (R36) -/
  progBank : Byte
  /-- the interrupt option register (R36) -/
  irqOption : Byte
  /-- the reset input and the interrupt requests (R35, 60_exceptions R262) -/
  lines : Lines
  /-- MODEL: what the platform does at the coming boundaries; past the end the lines stay as they are -/
  inputs : List Inputs
  /-- MODEL: how many free values have been used -/
  draws : Nat
  /-- MODEL: the calls made to the platform, newest first -/
  bus : List BusEvent
  /-- MODEL: the device's parameters (00_scope R8); no step changes them -/
  cfg : Config
deriving DecidableEq, Repr

/-- The machine right after reset. The spec gives `pc`, `sp`, `mode`, `nmiRet` and `run` (70_reset R310);
every other value is a DESIGN CHOICE (logs 1, 2, 3, 4, 7, 8, 15, 19). -/
def State.reset : State where
  a := 0
  x := 0
  y := 0
  v := 0
  w := 0
  pc := 0xFFE
  sp := 0
  stk := ⟨0, 0, 0, 0, 0, 0⟩
  normalFlags := ⟨false, false⟩
  intFlags := ⟨false, false⟩
  nmiFlags := ⟨false, false⟩
  mode := .nmi
  nmiRet := .normal
  run := .running
  data := []
  prog := []
  ramBank := 0
  windowSel := 0
  progBank := 0
  irqOption := 0
  lines := .quiet
  inputs := []
  draws := 0
  bus := []
  cfg := .testPlatform

/-- The answer of a step of this machine. -/
abbrev Outcome := Host.Outcome State Fault Refusal

end Sys2Proof.Machine
end

