-- ==== Sys2Proof/Machine/Flags.lean ====
section
/-! DEFINITION. The flag pair in use and the flag values (10_state R30 to R32, 41_arith_logic R161). -/

namespace Sys2Proof.Machine

/-- The pair in use, selected by the mode (10_state R30). -/
def State.flags (s : State) : FlagPair :=
  match s.mode with
  | .normal => s.normalFlags
  | .int => s.intFlags
  | .nmi => s.nmiFlags

/-- Writes the pair in use; the two other pairs keep their values (10_state R30). -/
def State.setFlags (s : State) (f : FlagPair) : State :=
  match s.mode with
  | .normal => { s with normalFlags := f }
  | .int => { s with intFlags := f }
  | .nmi => { s with nmiFlags := f }

/-- Z <- b; C keeps its value. -/
def State.setZ (s : State) (b : Bool) : State := s.setFlags { s.flags with z := b }

/-- C <- b; Z keeps its value. -/
def State.setC (s : State) (b : Bool) : State := s.setFlags { s.flags with c := b }

/-- Z: the 8-bit result is zero (41_arith_logic R161 (d)). -/
def isZero (v : Byte) : Bool := v = 0

/-- C after an addition: the carry out of bit 7 (41_arith_logic R161 (a)). -/
def carryOut (a b : Byte) : Bool := 256 ≤ a.toNat + b.toNat

/-- C after a subtraction or comparison: the borrow, unsigned (41_arith_logic R161 (b), (c)). -/
def borrow (a b : Byte) : Bool := a.toNat < b.toNat

/-- Bit 7, the MSB (00_scope R11). -/
def msb (v : Byte) : Bool := v.getLsbD 7

/-- The byte `v[6:0] : c` of a rotate left through carry (41_arith_logic R181). -/
def rotateLeftCarry (v : Byte) (c : Bool) : Byte := v.extractLsb' 0 7 ++ BitVec.ofBool c

end Sys2Proof.Machine
end

