-- ==== Sys2Proof/Syntax.lean ====
section
/-! DEFINITION. The instructions: one constructor for each mnemonic of spec/opcode_table.json. -/

namespace Sys2Proof

/-- The four short-direct registers, numbered 0 to 3 (10_state R21, 30_encoding R103). -/
inductive ShortReg where
  | x | y | v | w
deriving DecidableEq, Repr

/-- The two pointer registers of the indirect mode (10_state R21, 30_encoding R104). -/
inductive Pointer where
  | x | y
deriving DecidableEq, Repr

/-- The instructions (30_encoding R110). The first 42 constructors are the primary rows of the opcode
table, `illegal` is its five illegal rows, and the last six are its alias rows: other spellings of a
primary row with an operand fixed (R128 to R132). -/
inductive Instr where
  /-- `JRNZ e` (R201) -/
  | jrnz (e : BitVec 5)
  /-- `JRNC e` (R202) -/
  | jrnc (e : BitVec 5)
  /-- `JRZ e` (R203) -/
  | jrz (e : BitVec 5)
  /-- `JRC e` (R204) -/
  | jrc (e : BitVec 5)
  /-- `CALL abc` (R222) -/
  | call (abc : Addr)
  /-- `JP abc` (R221) -/
  | jp (abc : Addr)
  /-- `JRR b,rr,ee` (R205) -/
  | jrr (b : Fin 8) (rr : Byte) (ee : Byte)
  /-- `JRS b,rr,ee` (R206) -/
  | jrs (b : Fin 8) (rr : Byte) (ee : Byte)
  /-- `RES b,rr` (R231) -/
  | resBit (b : Fin 8) (rr : Byte)
  /-- `SET b,rr` (R232) -/
  | setBit (b : Fin 8) (rr : Byte)
  /-- `INC x[i]` (R178) -/
  | incReg (r : ShortReg)
  /-- `LD A,x[i]` (R141) -/
  | ldAReg (r : ShortReg)
  /-- `DEC x[i]` (R175) -/
  | decReg (r : ShortReg)
  /-- `LD x[i],A` (R142) -/
  | ldRegA (r : ShortReg)
  /-- `LD A,(X)`, `LD A,(Y)` (R143) -/
  | ldAInd (p : Pointer)
  /-- `CP A,(X)`, `CP A,(Y)` (R173) -/
  | cpInd (p : Pointer)
  /-- `ADD A,(X)`, `ADD A,(Y)` (R164) -/
  | addInd (p : Pointer)
  /-- `INC (X)`, `INC (Y)` (R179) -/
  | incInd (p : Pointer)
  /-- `LD (X),A`, `LD (Y),A` (R144) -/
  | ldIndA (p : Pointer)
  /-- `AND A,(X)`, `AND A,(Y)` (R167) -/
  | andInd (p : Pointer)
  /-- `SUB A,(X)`, `SUB A,(Y)` (R184) -/
  | subInd (p : Pointer)
  /-- `DEC (X)`, `DEC (Y)` (R176) -/
  | decInd (p : Pointer)
  /-- `LDI A,nn` (R147) -/
  | ldiA (nn : Byte)
  /-- `CPI A,nn` (R174) -/
  | cpi (nn : Byte)
  /-- `ADDI A,nn` (R165) -/
  | addi (nn : Byte)
  /-- `ANDI A,nn` (R168) -/
  | andi (nn : Byte)
  /-- `SUBI A,nn` (R185) -/
  | subi (nn : Byte)
  /-- `LD A,rr` (R145) -/
  | ldADir (rr : Byte)
  /-- `CP A,rr` (R172) -/
  | cpDir (rr : Byte)
  /-- `ADD A,rr` (R163) -/
  | addDir (rr : Byte)
  /-- `INC rr` (R180) -/
  | incDir (rr : Byte)
  /-- `LD rr,A` (R146) -/
  | ldDirA (rr : Byte)
  /-- `AND A,rr` (R166) -/
  | andDir (rr : Byte)
  /-- `SUB A,rr` (R183) -/
  | subDir (rr : Byte)
  /-- `DEC rr` (R177) -/
  | decDir (rr : Byte)
  /-- `LDI rr,nn` (R148) -/
  | ldiDir (rr : Byte) (nn : Byte)
  /-- `COM A` (R171) -/
  | com
  /-- `RETI` (R245) -/
  | reti
  /-- `STOP` (R247) -/
  | stop
  /-- `RLC A` (R181) -/
  | rlc
  /-- `RET` (R242) -/
  | ret
  /-- `WAIT` (R248) -/
  | wait
  /-- one of the twelve illegal opcode bytes (R118, R119) -/
  | illegal (op : Byte)
  /-- `NOP`, a spelling of `JRZ` with e = 0 (R128, R241) -/
  | nop
  /-- `SLA A`, a spelling of `ADD A,FFh` (R129, R182) -/
  | slaA
  /-- `CLR A`, a spelling of `SUB A,FFh` (R130, R169) -/
  | clrA
  /-- `CLR rr`, a spelling of `LDI rr,00h` (R131, R170) -/
  | clrDir (rr : Byte)
  /-- `INC A`, a spelling of `INC FFh` (R132, R180) -/
  | incA
  /-- `DEC A`, a spelling of `DEC FFh` (R132, R177) -/
  | decA
deriving DecidableEq, Repr

end Sys2Proof
end

