-- ==== Sys2Proof/Machine/Ops.lean ====
section
/-! DEFINITION. The named operations over registers, data space, program space and the stack, interrupt
entry and return, reset as an event, and what happens at an instruction boundary. -/

namespace Sys2Proof.Machine

/-! ### Byte stores -/

/-- What a data-space byte that nothing has written reads as. DESIGN CHOICE (log 7). -/
def unwrittenByte : Byte := 0

/-- The byte listed under key `k`, if any. -/
def Memory.find : Memory → Nat → Option Byte
  | [], _ => none
  | c :: m, k => if c.1 = k then some c.2 else Memory.find m k

/-- `m` with the byte under key `k` set to `v`, keys kept rising. -/
def Memory.insert : Memory → Nat → Byte → Memory
  | [], k, v => [(k, v)]
  | c :: m, k, v =>
    if k < c.1 then (k, v) :: c :: m
    else if k = c.1 then (k, v) :: m
    else c :: Memory.insert m k v

/-- `m` with nothing listed under key `k`. -/
def Memory.remove : Memory → Nat → Memory
  | [], _ => []
  | c :: m, k => if c.1 = k then Memory.remove m k else c :: Memory.remove m k

/-- The keys are strictly rising. -/
def Memory.rising : Memory → Bool
  | [] => true
  | c :: m => m.all (fun d => c.1 < d.1) && Memory.rising m

/-- The canonical form of the data store: rising keys, and no entry equal to what an unlisted key reads
as. -/
def Memory.wf (m : Memory) : Bool := Memory.rising m && m.all (fun c => c.2 ≠ unwrittenByte)

/-- The byte of the data store under key `k`. -/
def Memory.get (m : Memory) (k : Nat) : Byte := (Memory.find m k).getD unwrittenByte

/-- A write to the data store; it keeps the canonical form. -/
def Memory.put (m : Memory) (k : Nat) (v : Byte) : Memory :=
  if v = unwrittenByte then Memory.remove m k else Memory.insert m k v

/-! ### Registers -/

/-- x[i] (00_scope R12). -/
def State.reg (s : State) : ShortReg → Byte
  | .x => s.x
  | .y => s.y
  | .v => s.v
  | .w => s.w

/-- x[i] <- b (00_scope R12). -/
def State.setReg (s : State) (r : ShortReg) (b : Byte) : State :=
  match r with
  | .x => { s with x := b }
  | .y => { s with y := b }
  | .v => { s with v := b }
  | .w => { s with w := b }

/-- A <- b. -/
def State.setA (s : State) (b : Byte) : State := { s with a := b }

/-- pc <- t. -/
def State.setPc (s : State) (t : Addr) : State := { s with pc := t }

/-- pc <- pc + len, modulo 4096 (00_scope R13, 10_state R25). -/
def State.advance (s : State) (len : Nat) : State := { s with pc := s.pc + BitVec.ofNat 12 len }

/-- The registers that have a data-space address. -/
inductive CoreReg where
  | acc
  | short (r : ShortReg)
deriving DecidableEq, Repr

/-- The core's own data-space locations: 80h to 83h and FFh (20_memory R61). -/
def coreReg (addr : Byte) : Option CoreReg :=
  if addr = 0xFF then some .acc
  else if addr = 0x80 then some (.short .x)
  else if addr = 0x81 then some (.short .y)
  else if addr = 0x82 then some (.short .v)
  else if addr = 0x83 then some (.short .w)
  else none

/-- The content of a core location. -/
def State.coreByte (s : State) : CoreReg → Byte
  | .acc => s.a
  | .short r => s.reg r

/-- A write to a core location. -/
def State.setCore (s : State) (r : CoreReg) (b : Byte) : State :=
  match r with
  | .acc => s.setA b
  | .short r => s.setReg r b

/-! ### Data space -/

/-- The kind of a data-space address: that of the first region that holds it, else absent. -/
def kindOf : List Region → Byte → DataKind
  | [], _ => .absent
  | r :: rs, addr => if r.lo ≤ addr ∧ addr ≤ r.hi then r.kind else kindOf rs addr

/-- The page, of RAM or of I/O, that the data RAM banking register puts at 00h to 3Fh (20_memory R64). -/
def dataPage (s : State) : Nat := s.cfg.ramPages.getD s.ramBank.toNat 0

/-- The kind of a data-space address on this device: at 00h to 3Fh that of the page selected, which may
hold RAM or I/O (20_memory R64). -/
def State.kind (s : State) (addr : Byte) : DataKind :=
  if addr.toNat < 0x40 then kindOf (s.cfg.pageMaps.getD (dataPage s) s.cfg.dataMap) addr
  else kindOf s.cfg.dataMap addr

/-- The key of a data-space byte in the data store: its address, plus 256 for each page where the byte
is the page's own (20_memory R64). -/
def dataKey (s : State) (addr : Byte) : Nat :=
  match s.kind addr with
  | .pagedRam => addr.toNat + 256 * dataPage s
  | _ => addr.toNat

/-- The program store key of the byte at a window address: the block number from the window register,
the six low bits from the data address (20_memory R65). -/
def windowKey (s : State) (addr : Byte) : Nat :=
  64 * s.cfg.windowBlocks.getD s.windowSel.toNat 0 + addr.toNat % 64

/-- The byte the platform answers at `addr` (20_memory R64, R65, R78). A peripheral or control register,
and a window byte that is not in program ROM, answer a free value (log 6). -/
def platformByte (s : State) (addr : Byte) : Byte :=
  match s.kind addr with
  | .ram | .pagedRam => Memory.get s.data (dataKey s addr)
  | .romWindow => (Memory.find s.prog (windowKey s addr)).getD (Config.freeByte s.draws)
  | .device | .ramBankReg | .windowReg | .progBankReg | .irqOptionReg | .absent =>
    Config.freeByte s.draws

/-- The byte a read of data-space address `addr` returns (20_memory R62). -/
def dataByte (s : State) (addr : Byte) : Byte :=
  match coreReg addr with
  | some r => s.coreByte r
  | none => platformByte s addr

/-- A read of `addr` is answered: it is a core location or the device has something there. -/
def readable (s : State) (addr : Byte) : Bool :=
  (coreReg addr).isSome || s.kind addr ≠ .absent

/-- A write to `addr` is answered: neither absent nor in the data ROM window (20_memory R63). -/
def writable (s : State) (addr : Byte) : Bool :=
  (coreReg addr).isSome || (s.kind addr ≠ .absent && s.kind addr ≠ .romWindow)

/-- What a read of `addr` leaves: a core location has no side effect (20_memory R78), any other read is
a call to the platform and may use a free value. -/
def afterRead (s : State) (addr : Byte) : State :=
  match coreReg addr with
  | some _ => s
  | none => { s with draws := s.draws + 1, bus := .read addr (platformByte s addr) :: s.bus }

/-- `MemRead(addr, 1)` (20_memory R62). -/
def dataRead (addr : Byte) (s : State) : Except Fault (Byte × State) :=
  if readable s addr then .ok (dataByte s addr, afterRead s addr)
  else .error (.dataNotImplemented addr)

/-- What a platform location that takes writes does with `b` (20_memory R63 to R65, R69, 60_exceptions
R263). A device register keeps nothing the spec describes. -/
def platformStore (s : State) (addr b : Byte) : State :=
  match s.kind addr with
  | .ram | .pagedRam => { s with data := Memory.put s.data (dataKey s addr) b }
  | .ramBankReg => { s with ramBank := b }
  | .windowReg => { s with windowSel := b }
  | .progBankReg => { s with progBank := b }
  | .irqOptionReg => { s with irqOption := b }
  | .device | .romWindow | .absent => s

/-- What a write of `b` to `addr` leaves, where the write is answered. -/
def afterWrite (s : State) (addr b : Byte) : State :=
  match coreReg addr with
  | some r => s.setCore r b
  | none => { platformStore s addr b with bus := .write addr b :: s.bus }

/-- `MemWrite(addr, 1, b)` (20_memory R63). -/
def dataWrite (addr b : Byte) (s : State) : Except Fault State :=
  if writable s addr then .ok (afterWrite s addr b)
  else if s.kind addr = .romWindow then .error (.romWrite addr)
  else .error (.dataNotImplemented addr)

/-! ### Program space -/

/-- The key of a program-space byte in the program store: its address, plus 4096 for each page where
the address lies in the paged lower half (20_memory R69). -/
def progKey (s : State) (addr : Addr) : Nat :=
  if addr.toNat < 0x800 then addr.toNat + 4096 * s.cfg.progPages.getD s.progBank.toNat 0
  else addr.toNat

/-- `ProgRead(addr)` (20_memory R70). -/
def progRead (addr : Addr) (s : State) : Except Fault Byte :=
  match Memory.find s.prog (progKey s addr) with
  | some b => .ok b
  | none => .error (.fetchNotImplemented addr)

/-- Places bytes in program space from `addr` on, as the loader of a device does; addresses wrap. -/
def placeProgram (s : State) (addr : Addr) : List Byte → State
  | [] => s
  | b :: bs =>
    placeProgram { s with prog := Memory.insert s.prog (progKey s addr) b } (addr + 1) bs

/-! ### The stack (10_state R26 to R29) -/

/-- stk[n], n in 1..6. -/
def Stack.level (k : Stack) : Nat → Addr
  | 1 => k.l1
  | 2 => k.l2
  | 3 => k.l3
  | 4 => k.l4
  | 5 => k.l5
  | 6 => k.l6
  | _ => 0

/-- stk[n] <- t, n in 1..6. -/
def Stack.setLevel (k : Stack) (n : Nat) (t : Addr) : Stack :=
  match n with
  | 1 => { k with l1 := t }
  | 2 => { k with l2 := t }
  | 3 => { k with l3 := t }
  | 4 => { k with l4 := t }
  | 5 => { k with l5 := t }
  | 6 => { k with l6 := t }
  | _ => k

/-- `Push(t)` (10_state R27). -/
def push (t : Addr) (s : State) : Except Fault State :=
  if h : s.sp.val < 6 then
    .ok { s with sp := ⟨s.sp.val + 1, by omega⟩, stk := s.stk.setLevel (s.sp.val + 1) t }
  else
    match s.cfg.stackOverflow with
    | .overwrite => .ok { s with stk := s.stk.setLevel 6 t }
    | .keep => .ok s
    | .stop => .error (.stackOverflow s.pc)

/-- `Pop()`: the top value and the state without it, or nothing where the stack is empty (10_state
R28). -/
def pop (s : State) : Option (Addr × State) :=
  if s.sp.val = 0 then none
  else some (s.stk.level s.sp.val, { s with sp := ⟨s.sp.val - 1, by omega⟩ })

/-- RET's transfer, and RETI's: to the popped address, or to the next instruction where the stack is
empty (45_control R242, R245). -/
def popPc (s : State) : State :=
  match pop s with
  | some (t, s') => s'.setPc t
  | none => s.advance 1

/-! ### Interrupts (60_exceptions R261 to R281) -/

/-- The request of one source. -/
def requestOf (r : Requests) : Source → Bool
  | .nmi => r.nmi
  | .irq1 => r.irq1
  | .irq2 => r.irq2
  | .irq3 => r.irq3
  | .irq4 => r.irq4

/-- `r` without the request of one source. -/
def dropRequest (r : Requests) : Source → Requests
  | .nmi => { r with nmi := false }
  | .irq1 => { r with irq1 := false }
  | .irq2 => { r with irq2 := false }
  | .irq3 => { r with irq3 := false }
  | .irq4 => { r with irq4 := false }

/-- VEC(n) (20_memory R71, 60_exceptions R270). -/
def vector : Source → Addr
  | .nmi => 0xFFC
  | .irq1 => 0xFF6
  | .irq2 => 0xFF4
  | .irq3 => 0xFF2
  | .irq4 => 0xFF0

/-- `Platform.GlobalEnable()`: the platform's reading of the interrupt option register (60_exceptions
R263). -/
def globalEnable (s : State) : Bool := s.irqOption ∉ s.cfg.irqDisabledBy

/-- The waiting interrupt #1 to #4 of highest priority: the one with the smallest number (60_exceptions
R265). -/
def firstRequest (r : Requests) : Option Source :=
  if r.irq1 then some .irq1
  else if r.irq2 then some .irq2
  else if r.irq3 then some .irq3
  else if r.irq4 then some .irq4
  else none

/-- The interrupt the core accepts at a boundary (60_exceptions R265): the NMI outside NMI mode, else
in NORMAL mode with interrupts enabled the first of #1 to #4. -/
def acceptable (s : State) : Option Source :=
  if s.lines.requests.nmi ∧ s.mode ≠ .nmi then some .nmi
  else if s.mode = .normal ∧ globalEnable s then firstRequest s.lines.requests
  else none

/-- `nmi_ret <- mode` (60_exceptions R270). In NMI mode no NMI is accepted, so the last case is never
used. -/
def Mode.saved : Mode → ReturnMode
  | .normal => .normal
  | .int => .int
  | .nmi => .normal

/-- `mode <- nmi_ret` (45_control R245). -/
def ReturnMode.toMode : ReturnMode → Mode
  | .normal => .normal
  | .int => .int

/-- `Platform.IrqAck(n)`: the request drops where the platform's source is edge triggered (60_exceptions
R262). -/
def acknowledge (n : Source) (s : State) : State :=
  { s with
    lines := if requestOf s.cfg.edge n then { s.lines with requests := dropRequest s.lines.requests n } else s.lines
    bus := .irqAck n :: s.bus }

/-- The mode change of an entry, which is at once the switch of flag pair and the setting of the
interrupt mask (60_exceptions R270). -/
def enterMode (n : Source) (s : State) : State :=
  match n with
  | .nmi => { s with nmiRet := s.mode.saved, mode := .nmi }
  | .irq1 | .irq2 | .irq3 | .irq4 => { s with mode := .int }

/-- Entry to interrupt #n (60_exceptions R270): push the address of the next instruction, change the
mode, load the vector address, leave WAIT or STOP, acknowledge. -/
def enterInterrupt (n : Source) (s : State) : Outcome :=
  match push s.pc s with
  | .ok s' => .next (acknowledge n { enterMode n s' with pc := vector n, run := .running })
  | .error f => .fault f

/-- The mode after a RETI (45_control R245). -/
def returnMode (s : State) : Mode :=
  match s.mode with
  | .nmi => s.nmiRet.toMode
  | .normal | .int => .normal

/-- Return from interrupt (45_control R245, 60_exceptions R273): pop the return address or fall through,
then the mode change. -/
def returnFromInterrupt (s : State) : State := { popPc s with mode := returnMode s }

/-- Reset as an event (70_reset R310): the five values the spec gives; A, X, Y, V, W, the flags, the
stack levels and the platform's control registers become free values (R311, 93 U3, U12). The stores are
left to the platform, whose changes come through `inputs` (log 20). -/
def resetEvent (s : State) : State :=
  let d := s.draws
  { s with
    pc := 0xFFE
    mode := .nmi
    nmiRet := .normal
    sp := 0
    run := .running
    a := Config.freeByte d
    x := Config.freeByte (d + 1)
    y := Config.freeByte (d + 2)
    v := Config.freeByte (d + 3)
    w := Config.freeByte (d + 4)
    ramBank := Config.freeByte (d + 5)
    windowSel := Config.freeByte (d + 6)
    progBank := Config.freeByte (d + 7)
    irqOption := Config.freeByte (d + 8)
    normalFlags := ⟨Config.freeBit d, Config.freeBit (d + 1)⟩
    intFlags := ⟨Config.freeBit (d + 2), Config.freeBit (d + 3)⟩
    nmiFlags := ⟨Config.freeBit (d + 4), Config.freeBit (d + 5)⟩
    stk := ⟨Config.freeAddr d, Config.freeAddr (d + 1), Config.freeAddr (d + 2),
      Config.freeAddr (d + 3), Config.freeAddr (d + 4), Config.freeAddr (d + 5)⟩
    draws := d + 9 }

/-! ### The instruction boundary -/

/-- The platform's turn at a boundary: it shows its lines and changes its data-space locations, the
bytes of the store and the control registers (60_exceptions R262, R285; 10_state R36). -/
def sample (s : State) : State :=
  match s.inputs with
  | [] => s
  | i :: rest =>
    { s with
      lines := i.lines
      data := i.writes.foldl (fun m c => Memory.put m c.1 c.2) s.data
      ramBank := i.ramBank.getD s.ramBank
      windowSel := i.windowSel.getD s.windowSel
      progBank := i.progBank.getD s.progBank
      irqOption := i.irqOption.getD s.irqOption
      inputs := rest }

/-- What one step does. -/
inductive Action where
  | reset
  | interrupt (n : Source)
  | execute
  | idle
deriving DecidableEq, Repr

/-- The choice of 60_exceptions R264: reset first, then an acceptable interrupt, then an instruction if
running, else nothing. -/
def boundaryAction (s : State) : Action :=
  if s.lines.reset then .reset
  else
    match acceptable s with
    | some n => .interrupt n
    | none =>
      match s.run with
      | .running => .execute
      | .waiting | .stopped => .idle

end Sys2Proof.Machine
end

