-- ==== Sys2Proof/Machine/Operands.lean ====
section
/-! DEFINITION. The operand forms (40_load_store R149) and the shapes of instruction over them. -/

namespace Sys2Proof.Machine

/-- The address of an indirect operand: the whole content of X or Y (40_load_store R149). -/
def State.pointer (s : State) : Pointer → Byte
  | .x => s.x
  | .y => s.y

/-- The data-space address of the accumulator (10_state R20). -/
def accAddress : Byte := 0xFF

/-- An instruction that reads one data-space byte and then computes: `k` gets the byte and the state
after the read. -/
def withSource (ea : Byte) (s : State) (k : Byte → State → State) : Outcome :=
  match dataRead ea s with
  | .ok (src, s') => .next (k src s')
  | .error f => .fault f

/-- An instruction that writes one data-space byte, its destination not read (20_memory R76), and then
goes on with `k`. -/
def withStore (ea b : Byte) (s : State) (k : State → State) : Outcome :=
  match dataWrite ea b s with
  | .ok s' => .next (k s')
  | .error f => .fault f

/-- A read-modify-write instruction: one read of `ea`, one write of `f` of the byte read, and then `k`
of the byte written (20_memory R76, R77). -/
def withUpdate (ea : Byte) (s : State) (f : Byte → Byte) (k : Byte → State → State) : Outcome :=
  match dataRead ea s with
  | .ok (old, s') => withStore ea (f old) s' (k (f old))
  | .error e => .fault e

/-! The results of the accumulator instructions, before the program counter moves. -/

/-- A <- v; Z (40_load_store R140). -/
def loadA (v : Byte) (s : State) : State := (s.setA v).setZ (isZero v)

/-- A <- A + src; C the carry out, Z (41_arith_logic R163). -/
def addA (src : Byte) (s : State) : State :=
  (s.setA (s.a + src)).setFlags ⟨isZero (s.a + src), carryOut s.a src⟩

/-- A <- A - src; C the borrow, Z (41_arith_logic R183). -/
def subA (src : Byte) (s : State) : State :=
  (s.setA (s.a - src)).setFlags ⟨isZero (s.a - src), borrow s.a src⟩

/-- Z and C of A - src, A unchanged (41_arith_logic R172). -/
def compareA (src : Byte) (s : State) : State :=
  s.setFlags ⟨s.a = src, borrow s.a src⟩

/-- A <- A and src; Z (41_arith_logic R166). -/
def andA (src : Byte) (s : State) : State := loadA (s.a &&& src) s

/-! The same results with a data-space source and the program counter moved by `len`. -/

/-- LD A from data space. -/
def loadFrom (ea : Byte) (len : Nat) (s : State) : Outcome :=
  withSource ea s (fun src t => (loadA src t).advance len)

/-- ADD from data space. -/
def addFrom (ea : Byte) (len : Nat) (s : State) : Outcome :=
  withSource ea s (fun src t => (addA src t).advance len)

/-- SUB from data space. -/
def subFrom (ea : Byte) (len : Nat) (s : State) : Outcome :=
  withSource ea s (fun src t => (subA src t).advance len)

/-- CP from data space. -/
def compareFrom (ea : Byte) (len : Nat) (s : State) : Outcome :=
  withSource ea s (fun src t => (compareA src t).advance len)

/-- AND from data space. -/
def andFrom (ea : Byte) (len : Nat) (s : State) : Outcome :=
  withSource ea s (fun src t => (andA src t).advance len)

/-- LD of A into data space; Z from the byte moved (40_load_store R144, R146). -/
def storeA (ea : Byte) (len : Nat) (s : State) : Outcome :=
  withStore ea s.a s (fun t => (t.setZ (isZero s.a)).advance len)

/-- LDI of `nn` into data space; no flag (40_load_store R148). -/
def storeImmediate (ea nn : Byte) (len : Nat) (s : State) : Outcome :=
  withStore ea nn s (fun t => t.advance len)

/-- INC of a data-space byte; Z, not C (41_arith_logic R179, R180). -/
def increment (ea : Byte) (len : Nat) (s : State) : Outcome :=
  withUpdate ea s (fun b => b + 1) (fun b t => (t.setZ (isZero b)).advance len)

/-- DEC of a data-space byte; Z, not C (41_arith_logic R176, R177). -/
def decrement (ea : Byte) (len : Nat) (s : State) : Outcome :=
  withUpdate ea s (fun b => b - 1) (fun b t => (t.setZ (isZero b)).advance len)

end Sys2Proof.Machine
end

