-- ==== Sys2Proof/Machine/Arith.lean ====
section
/-! DEFINITION. The arithmetic and logic instructions and their other spellings (41_arith_logic R160 to
R187). -/

namespace Sys2Proof.Machine

/-- `ADD A,rr` (R163). -/
def execAddDir (rr : Byte) (s : State) : Outcome := addFrom rr 2 s

/-- `ADD A,(X)`, `ADD A,(Y)` (R164). -/
def execAddInd (p : Pointer) (s : State) : Outcome := addFrom (s.pointer p) 1 s

/-- `ADDI A,nn` (R165). -/
def execAddi (nn : Byte) (s : State) : Outcome := .next ((addA nn s).advance 2)

/-- `AND A,rr` (R166). -/
def execAndDir (rr : Byte) (s : State) : Outcome := andFrom rr 2 s

/-- `AND A,(X)`, `AND A,(Y)` (R167). -/
def execAndInd (p : Pointer) (s : State) : Outcome := andFrom (s.pointer p) 1 s

/-- `ANDI A,nn` (R168). -/
def execAndi (nn : Byte) (s : State) : Outcome := .next ((andA nn s).advance 2)

/-- `CLR A` (R169): the words of `SUB A,FFh`. -/
def execClrA (s : State) : Outcome := subFrom accAddress 2 s

/-- `CLR rr` (R170): the words of `LDI rr,00h`. -/
def execClrDir (rr : Byte) (s : State) : Outcome := storeImmediate rr 0 3 s

/-- `COM A` (R171): C takes the old bit 7. -/
def execCom (s : State) : Outcome :=
  .next (((s.setA (~~~s.a)).setFlags ⟨isZero (~~~s.a), msb s.a⟩).advance 1)

/-- `CP A,rr` (R172). -/
def execCpDir (rr : Byte) (s : State) : Outcome := compareFrom rr 2 s

/-- `CP A,(X)`, `CP A,(Y)` (R173). -/
def execCpInd (p : Pointer) (s : State) : Outcome := compareFrom (s.pointer p) 1 s

/-- `CPI A,nn` (R174). -/
def execCpi (nn : Byte) (s : State) : Outcome := .next ((compareA nn s).advance 2)

/-- `DEC x[i]` (R175). -/
def execDecReg (r : ShortReg) (s : State) : Outcome :=
  .next (((s.setReg r (s.reg r - 1)).setZ (isZero (s.reg r - 1))).advance 1)

/-- `DEC (X)`, `DEC (Y)` (R176). -/
def execDecInd (p : Pointer) (s : State) : Outcome := decrement (s.pointer p) 1 s

/-- `DEC rr` (R177). -/
def execDecDir (rr : Byte) (s : State) : Outcome := decrement rr 2 s

/-- `DEC A` (R132, R177): the words of `DEC FFh`. -/
def execDecA (s : State) : Outcome := decrement accAddress 2 s

/-- `INC x[i]` (R178). -/
def execIncReg (r : ShortReg) (s : State) : Outcome :=
  .next (((s.setReg r (s.reg r + 1)).setZ (isZero (s.reg r + 1))).advance 1)

/-- `INC (X)`, `INC (Y)` (R179). -/
def execIncInd (p : Pointer) (s : State) : Outcome := increment (s.pointer p) 1 s

/-- `INC rr` (R180). -/
def execIncDir (rr : Byte) (s : State) : Outcome := increment rr 2 s

/-- `INC A` (R132, R180): the words of `INC FFh`. -/
def execIncA (s : State) : Outcome := increment accAddress 2 s

/-- `RLC A` (R181): a 9-bit rotate left of C and A. -/
def execRlc (s : State) : Outcome :=
  let v := rotateLeftCarry s.a s.flags.c
  .next (((s.setA v).setFlags ⟨isZero v, msb s.a⟩).advance 1)

/-- `SLA A` (R182): the words of `ADD A,FFh`. -/
def execSlaA (s : State) : Outcome := addFrom accAddress 2 s

/-- `SUB A,rr` (R183). -/
def execSubDir (rr : Byte) (s : State) : Outcome := subFrom rr 2 s

/-- `SUB A,(X)`, `SUB A,(Y)` (R184). -/
def execSubInd (p : Pointer) (s : State) : Outcome := subFrom (s.pointer p) 1 s

/-- `SUBI A,nn` (R185). -/
def execSubi (nn : Byte) (s : State) : Outcome := .next ((subA nn s).advance 2)

end Sys2Proof.Machine
end

