-- ==== Sys2Proof/Machine/Bits.lean ====
section
/-! DEFINITION. The bit manipulation instructions (44_bit_manip R230 to R233). -/

namespace Sys2Proof.Machine

/-- The byte with only bit `b` set: 1 << b (00_scope R11). -/
def bitMask (b : Fin 8) : Byte := 1#8 <<< b.val

/-- `RES b,rr` (R231): the whole byte is read and written back; no flag. -/
def execResBit (b : Fin 8) (rr : Byte) (s : State) : Outcome :=
  withUpdate rr s (fun v => v &&& ~~~(bitMask b)) (fun _ t => t.advance 2)

/-- `SET b,rr` (R232): the whole byte is read and written back; no flag. -/
def execSetBit (b : Fin 8) (rr : Byte) (s : State) : Outcome :=
  withUpdate rr s (fun v => v ||| bitMask b) (fun _ t => t.advance 2)

end Sys2Proof.Machine
end

