-- ==== Sys2Proof/Machine/Branch.lean ====
section
/-! DEFINITION. The conditional branch instructions (42_cond_branch R200 to R209). -/

namespace Sys2Proof.Machine

/-- The target of a flag branch: pc + 1 + sext_5(e), modulo 4096 (30_encoding R114). -/
def pcrTarget (s : State) (e : BitVec 5) : Addr := s.pc + 1 + e.signExtend 12

/-- The target of a bit test branch: pc + BT_BASE + sext_8(ee), modulo 4096 (30_encoding R115). -/
def btTarget (s : State) (ee : Byte) : Addr := s.pc + s.cfg.btBase + ee.signExtend 12

/-- A flag branch, taken where `t` holds (R201 to R204). -/
def branchIf (t : Bool) (e : BitVec 5) (s : State) : Outcome :=
  .next (if t then s.setPc (pcrTarget s e) else s.advance 1)

/-- A bit test branch: C takes the tested bit, and the branch is taken where it equals `want` (R205,
R206). -/
def branchOnBit (want : Bool) (b : Fin 8) (rr ee : Byte) (s : State) : Outcome :=
  withSource rr s (fun v t =>
    let bit := v.getLsbD b.val
    let t := t.setC bit
    if bit = want then t.setPc (btTarget t ee) else t.advance 3)

/-- `JRNZ e` (R201). -/
def execJrnz (e : BitVec 5) (s : State) : Outcome := branchIf (!s.flags.z) e s

/-- `JRNC e` (R202). -/
def execJrnc (e : BitVec 5) (s : State) : Outcome := branchIf (!s.flags.c) e s

/-- `JRZ e` (R203). -/
def execJrz (e : BitVec 5) (s : State) : Outcome := branchIf s.flags.z e s

/-- `JRC e` (R204). -/
def execJrc (e : BitVec 5) (s : State) : Outcome := branchIf s.flags.c e s

/-- `JRR b,rr,ee` (R205). -/
def execJrr (b : Fin 8) (rr ee : Byte) (s : State) : Outcome := branchOnBit false b rr ee s

/-- `JRS b,rr,ee` (R206). -/
def execJrs (b : Fin 8) (rr ee : Byte) (s : State) : Outcome := branchOnBit true b rr ee s

end Sys2Proof.Machine
end

