-- ==== Sys2Proof/Machine/Control.lean ====
section
/-! DEFINITION. The control instructions (45_control R240 to R249) and the illegal opcodes. -/

namespace Sys2Proof.Machine

/-- `NOP` (R241). -/
def execNop (s : State) : Outcome := .next (s.advance 1)

/-- `RET` (R242): the mode and the flag pair in use do not change. -/
def execRet (s : State) : Outcome := .next (popPc s)

/-- `RETI` (R245). -/
def execReti (s : State) : Outcome := .next (returnFromInterrupt s)

/-- `STOP` (R247). -/
def execStop (s : State) : Outcome :=
  .next { s.advance 1 with run := .stopped, bus := .haltStop :: s.bus }

/-- `WAIT` (R248). -/
def execWait (s : State) : Outcome :=
  .next { s.advance 1 with run := .waiting, bus := .haltWait :: s.bus }

/-- An illegal opcode (30_encoding R119): the model stops. -/
def execIllegal (op : Byte) (s : State) : Outcome := .fault (.illegalOpcode s.pc op)

end Sys2Proof.Machine
end

