-- ==== Sys2Proof/Machine/Jump.lean ====
section
/-! DEFINITION. The jump and call instructions (43_jump_call R220 to R223). -/

namespace Sys2Proof.Machine

/-- `JP abc` (R221). -/
def execJp (abc : Addr) (s : State) : Outcome := .next (s.setPc abc)

/-- `CALL abc` (R222): the value stacked is the address of the instruction after the CALL. -/
def execCall (abc : Addr) (s : State) : Outcome :=
  match push (s.pc + 2) s with
  | .ok t => .next (t.setPc abc)
  | .error f => .fault f

end Sys2Proof.Machine
end

