-- ==== Sys2Proof/Machine/LoadStore.lean ====
section
/-! DEFINITION. The load and store instructions (40_load_store R140 to R150). -/

namespace Sys2Proof.Machine

/-- `LD A,x[i]` (R141). -/
def execLdAReg (r : ShortReg) (s : State) : Outcome := .next ((loadA (s.reg r) s).advance 1)

/-- `LD x[i],A` (R142): Z from the byte moved. -/
def execLdRegA (r : ShortReg) (s : State) : Outcome :=
  .next (((s.setReg r s.a).setZ (isZero s.a)).advance 1)

/-- `LD A,(X)`, `LD A,(Y)` (R143). -/
def execLdAInd (p : Pointer) (s : State) : Outcome := loadFrom (s.pointer p) 1 s

/-- `LD (X),A`, `LD (Y),A` (R144). -/
def execLdIndA (p : Pointer) (s : State) : Outcome := storeA (s.pointer p) 1 s

/-- `LD A,rr` (R145). -/
def execLdADir (rr : Byte) (s : State) : Outcome := loadFrom rr 2 s

/-- `LD rr,A` (R146). -/
def execLdDirA (rr : Byte) (s : State) : Outcome := storeA rr 2 s

/-- `LDI A,nn` (R147). -/
def execLdiA (nn : Byte) (s : State) : Outcome := .next ((loadA nn s).advance 2)

/-- `LDI rr,nn` (R148): no flag, even where rr is A. -/
def execLdiDir (rr nn : Byte) (s : State) : Outcome := storeImmediate rr nn 3 s

end Sys2Proof.Machine
end

