-- ==== Sys2Proof/Machine/Dispatch.lean ====
section
/-! DEFINITION. The meaning of each instruction. -/

namespace Sys2Proof.Machine

def exec (i : Instr) (s : State) : Host.Outcome State Fault Refusal :=
  match i with
  | .jrnz e => Sys2Proof.Machine.execJrnz e s
  | .jrnc e => Sys2Proof.Machine.execJrnc e s
  | .jrz e => Sys2Proof.Machine.execJrz e s
  | .jrc e => Sys2Proof.Machine.execJrc e s
  | .call abc => Sys2Proof.Machine.execCall abc s
  | .jp abc => Sys2Proof.Machine.execJp abc s
  | .jrr b rr ee => Sys2Proof.Machine.execJrr b rr ee s
  | .jrs b rr ee => Sys2Proof.Machine.execJrs b rr ee s
  | .resBit b rr => Sys2Proof.Machine.execResBit b rr s
  | .setBit b rr => Sys2Proof.Machine.execSetBit b rr s
  | .incReg r => Sys2Proof.Machine.execIncReg r s
  | .ldAReg r => Sys2Proof.Machine.execLdAReg r s
  | .decReg r => Sys2Proof.Machine.execDecReg r s
  | .ldRegA r => Sys2Proof.Machine.execLdRegA r s
  | .ldAInd p => Sys2Proof.Machine.execLdAInd p s
  | .cpInd p => Sys2Proof.Machine.execCpInd p s
  | .addInd p => Sys2Proof.Machine.execAddInd p s
  | .incInd p => Sys2Proof.Machine.execIncInd p s
  | .ldIndA p => Sys2Proof.Machine.execLdIndA p s
  | .andInd p => Sys2Proof.Machine.execAndInd p s
  | .subInd p => Sys2Proof.Machine.execSubInd p s
  | .decInd p => Sys2Proof.Machine.execDecInd p s
  | .ldiA nn => Sys2Proof.Machine.execLdiA nn s
  | .cpi nn => Sys2Proof.Machine.execCpi nn s
  | .addi nn => Sys2Proof.Machine.execAddi nn s
  | .andi nn => Sys2Proof.Machine.execAndi nn s
  | .subi nn => Sys2Proof.Machine.execSubi nn s
  | .ldADir rr => Sys2Proof.Machine.execLdADir rr s
  | .cpDir rr => Sys2Proof.Machine.execCpDir rr s
  | .addDir rr => Sys2Proof.Machine.execAddDir rr s
  | .incDir rr => Sys2Proof.Machine.execIncDir rr s
  | .ldDirA rr => Sys2Proof.Machine.execLdDirA rr s
  | .andDir rr => Sys2Proof.Machine.execAndDir rr s
  | .subDir rr => Sys2Proof.Machine.execSubDir rr s
  | .decDir rr => Sys2Proof.Machine.execDecDir rr s
  | .ldiDir rr nn => Sys2Proof.Machine.execLdiDir rr nn s
  | .com => Sys2Proof.Machine.execCom s
  | .reti => Sys2Proof.Machine.execReti s
  | .stop => Sys2Proof.Machine.execStop s
  | .rlc => Sys2Proof.Machine.execRlc s
  | .ret => Sys2Proof.Machine.execRet s
  | .wait => Sys2Proof.Machine.execWait s
  | .illegal op => Sys2Proof.Machine.execIllegal op s
  | .nop => Sys2Proof.Machine.execNop s
  | .slaA => Sys2Proof.Machine.execSlaA s
  | .clrA => Sys2Proof.Machine.execClrA s
  | .clrDir rr => Sys2Proof.Machine.execClrDir rr s
  | .incA => Sys2Proof.Machine.execIncA s
  | .decA => Sys2Proof.Machine.execDecA s

end Sys2Proof.Machine
end

