-- ==== Sys2Proof/WellFormed.lean ====
section
/-! DEFINITION. Which instruction terms stand for bytes of the opcode map. -/

namespace Sys2Proof

/-- The twelve illegal opcode bytes (30_encoding R118). -/
def illegalOpcodes : List Byte :=
  [0x05, 0x25, 0x45, 0x65, 0x85, 0xA5, 0xC5, 0xE5, 0x77, 0x97, 0xF7, 0x8D]

/-- `i` is the term its bytes decode to. Every operand of every width is legal (R117), so only two
things are checked: `illegal` carries one of the twelve bytes of R118, and the bytes that an alias row
names (R128 to R132) belong to the alias's constructor. The meaning `exec` is defined, and agrees with
the alias's, on the other spelling too. -/
def Instr.wellFormed : Instr → Bool
  | .illegal op => op ∈ illegalOpcodes
  | .jrz e => e ≠ 0
  | .addDir rr => rr ≠ 0xFF
  | .subDir rr => rr ≠ 0xFF
  | .incDir rr => rr ≠ 0xFF
  | .decDir rr => rr ≠ 0xFF
  | .ldiDir _ nn => nn ≠ 0
  | .jrnz _ | .jrnc _ | .jrc _ | .call _ | .jp _ | .jrr _ _ _ | .jrs _ _ _ | .resBit _ _ | .setBit _ _
  | .incReg _ | .ldAReg _ | .decReg _ | .ldRegA _
  | .ldAInd _ | .cpInd _ | .addInd _ | .incInd _ | .ldIndA _ | .andInd _ | .subInd _ | .decInd _
  | .ldiA _ | .cpi _ | .addi _ | .andi _ | .subi _
  | .ldADir _ | .cpDir _ | .ldDirA _ | .andDir _
  | .com | .reti | .stop | .rlc | .ret | .wait
  | .nop | .slaA | .clrA | .clrDir _ | .incA | .decA => true

end Sys2Proof
end

