-- ==== Sys2Proof/Decode.lean ====
section
/-! DEFINITION. The decoder over the opcode map (30_encoding R100 to R118), then the encoder. -/

namespace Sys2Proof

/-- Why a list of bytes is not an instruction. -/
inductive Reject where
  /-- there is no opcode byte -/
  | noBytes
  /-- the opcode byte calls for more operand bytes than there are (R100) -/
  | truncated (op : Byte)
deriving DecidableEq, Repr

/-- The number of bytes of the instruction that begins with `op`, 0 for an illegal opcode, which has no
length (R100). -/
def lengthOf (op : Byte) : Nat :=
  let bit4 := op.getLsbD 4
  match op.toNat % 16 with
  | 1 | 9 | 11 => 2
  | 3 => 3
  | 5 => if bit4 then 1 else 0
  | 13 => if op = 0x0D then 3 else if op = 0x8D then 0 else 1
  | 7 => if op = 0x77 ∨ op = 0x97 ∨ op = 0xF7 then 0 else if bit4 then 2 else 1
  | 15 => if bit4 then 2 else 1
  | _ => 1

/-- The displacement field e = op[7:3] of the four flag branches (R108). -/
def pcrField (op : Byte) : BitVec 5 := op.extractLsb' 3 5

/-- The 12-bit address of JP and CALL: address[11:4] = b1, address[3:0] = op[7:4] (R116). -/
def extAddress (op b1 : Byte) : Addr := b1 ++ op.extractLsb' 4 4

/-- The bit number of RES, SET, JRR, JRS: b = 4·op[5] + 2·op[6] + op[7] (R113). -/
def bitNumber (op : Byte) : Fin 8 :=
  match op.getLsbD 5, op.getLsbD 6, op.getLsbD 7 with
  | false, false, false => 0
  | false, false, true => 1
  | false, true, false => 2
  | false, true, true => 3
  | true, false, false => 4
  | true, false, true => 5
  | true, true, false => 6
  | true, true, true => 7

/-- The short-direct register number op[7:6] (R103). -/
def shortReg (op : Byte) : ShortReg :=
  match op.getLsbD 7, op.getLsbD 6 with
  | false, false => .x
  | false, true => .y
  | true, false => .v
  | true, true => .w

/-- The four short-direct operations, by f = op[5] and d = op[3] (R103). -/
def decodeShort (op : Byte) : Instr :=
  match op.getLsbD 5, op.getLsbD 3 with
  | false, false => .incReg (shortReg op)
  | true, false => .ldAReg (shortReg op)
  | false, true => .decReg (shortReg op)
  | true, true => .ldRegA (shortReg op)

/-- The inherent instructions and LDI rr,nn, by op[7:5] (R102, R107); op = 0Dh with nn = 00h is the row
CLR rr (R131). -/
def decodeInherent (op b1 b2 : Byte) : Instr :=
  match op.toNat / 32 with
  | 0 => if b2 = 0 then .clrDir b1 else .ldiDir b1 b2
  | 1 => .com
  | 2 => .reti
  | 3 => .stop
  | 5 => .rlc
  | 6 => .ret
  | 7 => .wait
  | _ => .illegal op

/-- The eight operations of the indirect mode, by op[7:5] (R104). -/
def decodeIndirect (op : Byte) (p : Pointer) : Instr :=
  match op.toNat / 32 with
  | 0 => .ldAInd p
  | 1 => .cpInd p
  | 2 => .addInd p
  | 3 => .incInd p
  | 4 => .ldIndA p
  | 5 => .andInd p
  | 6 => .subInd p
  | _ => .decInd p

/-- The five two-byte immediate instructions and the three illegal bytes of their column (R106, R118). -/
def decodeImmediate (op b1 : Byte) : Instr :=
  match op.toNat / 32 with
  | 0 => .ldiA b1
  | 1 => .cpi b1
  | 2 => .addi b1
  | 5 => .andi b1
  | 6 => .subi b1
  | _ => .illegal op

/-- The eight operations of the direct mode, by op[7:5] (R105). With rr = FFh four of them are the rows
SLA A, INC A, CLR A and DEC A (R129, R130, R132). -/
def decodeDirect (op b1 : Byte) : Instr :=
  match op.toNat / 32 with
  | 0 => .ldADir b1
  | 1 => .cpDir b1
  | 2 => if b1 = 0xFF then .slaA else .addDir b1
  | 3 => if b1 = 0xFF then .incA else .incDir b1
  | 4 => .ldDirA b1
  | 5 => .andDir b1
  | 6 => if b1 = 0xFF then .clrA else .subDir b1
  | _ => if b1 = 0xFF then .decA else .decDir b1

/-- The instruction of an opcode byte and the two bytes after it: the decode tree of R101. A byte that
the instruction does not have is not looked at. -/
def decodeOp (op b1 b2 : Byte) : Instr :=
  let bit4 := op.getLsbD 4
  match op.toNat % 16 with
  | 0 | 8 => .jrnz (pcrField op)
  | 2 | 10 => .jrnc (pcrField op)
  | 4 | 12 => if pcrField op = 0 then .nop else .jrz (pcrField op)
  | 6 | 14 => .jrc (pcrField op)
  | 1 => .call (extAddress op b1)
  | 9 => .jp (extAddress op b1)
  | 3 => if bit4 then .jrs (bitNumber op) b1 b2 else .jrr (bitNumber op) b1 b2
  | 11 => if bit4 then .setBit (bitNumber op) b1 else .resBit (bitNumber op) b1
  | 5 => if bit4 then decodeShort op else .illegal op
  | 13 => if bit4 then decodeShort op else decodeInherent op b1 b2
  | 7 => if bit4 then decodeImmediate op b1 else decodeIndirect op .x
  | _ => if bit4 then decodeDirect op b1 else decodeIndirect op .y

/-- The instruction at the head of a list of bytes, first byte at the lowest address (20_memory R74);
an answer for every list. -/
def decode : List Byte → Except Reject Instr
  | [] => .error .noBytes
  | op :: rest =>
    match lengthOf op with
    | 2 =>
      match rest with
      | b1 :: _ => .ok (decodeOp op b1 0)
      | [] => .error (.truncated op)
    | 3 =>
      match rest with
      | b1 :: b2 :: _ => .ok (decodeOp op b1 b2)
      | _ => .error (.truncated op)
    | _ => .ok (decodeOp op 0 0)

/-- The bytes of an instruction whose bits are `w`, bit 0 the least significant bit of the first byte;
every bit from `nbits` on is 0. Three bytes are the longest instruction (R100). -/
def wordBytes (nbits w : Nat) : List Byte :=
  let v := w % 2 ^ nbits
  [BitVec.ofNat 8 v, BitVec.ofNat 8 (v / 256), BitVec.ofNat 8 (v / 65536)]

/-- The instruction the decoder reads from the bits `w` of a row of spec/opcode_table.json. -/
def decodeTableWord (nbits w : Nat) : Option Instr :=
  match decode (wordBytes nbits w) with
  | .ok i => some i
  | .error _ => none

/-! The encoder, from the patterns of R102 to R112. -/

/-- The opcode byte `eeeee cc0` (R108). -/
def encodePcr (e : BitVec 5) (cc : BitVec 2) : Byte := e ++ cc ++ 0#1

/-- The two bytes `cccc t001 aaaabbbb` (R109, R116). -/
def encodeExt (abc : Addr) (t : BitVec 1) : List Byte :=
  [abc.extractLsb' 0 4 ++ t ++ 0b001#3, abc.extractLsb' 4 8]

/-- The field op[7:5] of a bit number, its bits in reverse order (R113). -/
def bitField (b : Fin 8) : BitVec 3 :=
  let n := BitVec.ofNat 3 b.val
  n.extractLsb' 0 1 ++ n.extractLsb' 1 1 ++ n.extractLsb' 2 1

/-- The register number of a short-direct register (R103). -/
def ShortReg.code : ShortReg → BitVec 2
  | .x => 0
  | .y => 1
  | .v => 2
  | .w => 3

/-- The opcode byte `rr f1 d101` (R103). -/
def encodeShort (r : ShortReg) (f d : BitVec 1) : Byte := r.code ++ f ++ 1#1 ++ d ++ 0b101#3

/-- The bit y = op[3] of a pointer (R104). -/
def Pointer.code : Pointer → BitVec 1
  | .x => 0
  | .y => 1

/-- The opcode byte `ooo0 y111` (R104). -/
def encodeInd (ooo : BitVec 3) (p : Pointer) : Byte := ooo ++ 0#1 ++ p.code ++ 0b111#3

/-- The opcode byte `ooo1 1111` (R105). -/
def opcodeDir (ooo : BitVec 3) : Byte := ooo ++ 0b11111#5

/-- The opcode byte `ooo1 0111` (R106). -/
def opcodeImm (ooo : BitVec 3) : Byte := ooo ++ 0b10111#5

/-- The opcode byte `ooo0 1101` (R102). -/
def opcodeInh (ooo : BitVec 3) : Byte := ooo ++ 0b01101#5

/-- The bytes of an instruction, first byte first. -/
def encode : Instr → List Byte
  | .jrnz e => [encodePcr e 0]
  | .jrnc e => [encodePcr e 1]
  | .jrz e => [encodePcr e 2]
  | .jrc e => [encodePcr e 3]
  | .call abc => encodeExt abc 0
  | .jp abc => encodeExt abc 1
  | .jrr b rr ee => [bitField b ++ 0b00011#5, rr, ee]
  | .jrs b rr ee => [bitField b ++ 0b10011#5, rr, ee]
  | .resBit b rr => [bitField b ++ 0b01011#5, rr]
  | .setBit b rr => [bitField b ++ 0b11011#5, rr]
  | .incReg r => [encodeShort r 0 0]
  | .ldAReg r => [encodeShort r 1 0]
  | .decReg r => [encodeShort r 0 1]
  | .ldRegA r => [encodeShort r 1 1]
  | .ldAInd p => [encodeInd 0 p]
  | .cpInd p => [encodeInd 1 p]
  | .addInd p => [encodeInd 2 p]
  | .incInd p => [encodeInd 3 p]
  | .ldIndA p => [encodeInd 4 p]
  | .andInd p => [encodeInd 5 p]
  | .subInd p => [encodeInd 6 p]
  | .decInd p => [encodeInd 7 p]
  | .ldiA nn => [opcodeImm 0, nn]
  | .cpi nn => [opcodeImm 1, nn]
  | .addi nn => [opcodeImm 2, nn]
  | .andi nn => [opcodeImm 5, nn]
  | .subi nn => [opcodeImm 6, nn]
  | .ldADir rr => [opcodeDir 0, rr]
  | .cpDir rr => [opcodeDir 1, rr]
  | .addDir rr => [opcodeDir 2, rr]
  | .incDir rr => [opcodeDir 3, rr]
  | .ldDirA rr => [opcodeDir 4, rr]
  | .andDir rr => [opcodeDir 5, rr]
  | .subDir rr => [opcodeDir 6, rr]
  | .decDir rr => [opcodeDir 7, rr]
  | .ldiDir rr nn => [opcodeInh 0, rr, nn]
  | .com => [opcodeInh 1]
  | .reti => [opcodeInh 2]
  | .stop => [opcodeInh 3]
  | .rlc => [opcodeInh 5]
  | .ret => [opcodeInh 6]
  | .wait => [opcodeInh 7]
  | .illegal op => [op]
  | .nop => [0x04]
  | .slaA => [0x5F, 0xFF]
  | .clrA => [0xDF, 0xFF]
  | .clrDir rr => [0x0D, rr, 0x00]
  | .incA => [0x7F, 0xFF]
  | .decA => [0xFF, 0xFF]

end Sys2Proof
end

