-- ==== Sys2Proof/Machine/Fetch.lean ====
section
/-! DEFINITION. Fetching an instruction: the opcode byte at `pc`, then the operand bytes it calls for,
addresses modulo 4096 (20_memory R70, 30_encoding R100, R121). -/

namespace Sys2Proof.Machine

/-- The instruction at `pc`. Only the bytes the instruction has are fetched. -/
def fetch (s : State) : Except Fault Instr :=
  match progRead s.pc s with
  | .error f => .error f
  | .ok op =>
    match lengthOf op with
    | 2 =>
      match progRead (s.pc + 1) s with
      | .error f => .error f
      | .ok b1 => .ok (decodeOp op b1 0)
    | 3 =>
      match progRead (s.pc + 1) s with
      | .error f => .error f
      | .ok b1 =>
        match progRead (s.pc + 2) s with
        | .error f => .error f
        | .ok b2 => .ok (decodeOp op b1 b2)
    | _ => .ok (decodeOp op 0 0)

/-- The bytes placed at `pc`, with everything else set so that the next step fetches there: the core
running, no line asserted and no input to come (log 8). -/
def placeInstruction (s : State) (bytes : List Byte) : State :=
  placeProgram { s with run := .running, lines := .quiet, inputs := [] } s.pc bytes

end Sys2Proof.Machine
end

