-- ==== Sys2Proof/Machine/Step.lean ====
section
/-! DEFINITION. One step of the machine (60_exceptions R264), and the placing of one instruction. -/

namespace Sys2Proof.Machine

/-- One step, from an instruction boundary: the platform's turn, then reset, an interrupt entry, one
whole instruction, or nothing (60_exceptions R264). -/
def step (s : State) : Host.Outcome State Fault Refusal :=
  let s := sample s
  match boundaryAction s with
  | .reset => .next (resetEvent s)
  | .interrupt n => enterInterrupt n s
  | .execute =>
    match fetch s with
    | .ok i => exec i s
    | .error f => .fault f
  | .idle => .next s

/-- `s` with the instruction whose bits are `w` stored where the next step fetches, and nothing pending
that would keep the next step from it. -/
def State.withFetchWord (s : State) (nbits w : Nat) : State := placeInstruction s (wordBytes nbits w)

end Sys2Proof.Machine
end

