-- ==== Sys2Proof/Safety.lean ====
section
/-! DEFINITION. The terms claims are written in: where each instruction touches data space, when it
runs to its end, what a state must satisfy, and which parts of two states agree. -/

namespace Sys2Proof.Machine

/-! ### Data-space accesses (20_memory R76) -/

/-- The data-space address that instruction `i` reads, if it reads one. Short direct operands and the
pointer registers are register accesses. -/
def readAddress (i : Instr) (s : State) : Option Byte :=
  match i with
  | .ldAInd p | .cpInd p | .addInd p | .incInd p | .andInd p | .subInd p | .decInd p => some (s.pointer p)
  | .ldADir rr | .cpDir rr | .addDir rr | .incDir rr | .andDir rr | .subDir rr | .decDir rr => some rr
  | .resBit _ rr | .setBit _ rr | .jrr _ rr _ | .jrs _ rr _ => some rr
  | .slaA | .clrA | .incA | .decA => some accAddress
  | .ldIndA _ | .ldDirA _ | .ldiDir _ _ | .clrDir _ => none
  | .jrnz _ | .jrnc _ | .jrz _ | .jrc _ | .call _ | .jp _
  | .incReg _ | .ldAReg _ | .decReg _ | .ldRegA _
  | .ldiA _ | .cpi _ | .addi _ | .andi _ | .subi _
  | .com | .reti | .stop | .rlc | .ret | .wait | .illegal _ | .nop => none

/-- The data-space address that instruction `i` writes, if it writes one, other than the implied
accumulator. -/
def writeAddress (i : Instr) (s : State) : Option Byte :=
  match i with
  | .incInd p | .decInd p | .ldIndA p => some (s.pointer p)
  | .incDir rr | .decDir rr | .ldDirA rr | .ldiDir rr _ | .clrDir rr => some rr
  | .resBit _ rr | .setBit _ rr => some rr
  | .incA | .decA => some accAddress
  | .ldAInd _ | .cpInd _ | .addInd _ | .andInd _ | .subInd _
  | .ldADir _ | .cpDir _ | .addDir _ | .andDir _ | .subDir _ | .jrr _ _ _ | .jrs _ _ _
  | .slaA | .clrA
  | .jrnz _ | .jrnc _ | .jrz _ | .jrc _ | .call _ | .jp _
  | .incReg _ | .ldAReg _ | .decReg _ | .ldRegA _
  | .ldiA _ | .cpi _ | .addi _ | .andi _ | .subi _
  | .com | .reti | .stop | .rlc | .ret | .wait | .illegal _ | .nop => none

/-- The calls to the platform that a read of `ea` makes: one, or none for a core location (20_memory
R62, R66). -/
def readCalls (s : State) (ea : Byte) : List BusEvent :=
  match coreReg ea with
  | some _ => []
  | none => [.read ea (dataByte s ea)]

/-- The calls to the platform that a write of `b` to `ea` makes. -/
def writeCalls (ea b : Byte) : List BusEvent :=
  match coreReg ea with
  | some _ => []
  | none => [.write ea b]

/-! ### Completion -/

/-- A push is answered: a level is free or the configuration does not stop (10_state R27). -/
def canPush (s : State) : Bool := s.sp.val < 6 || s.cfg.stackOverflow ≠ .stop

/-- Instruction `i` runs to its end in `s`: it is no illegal opcode, its data-space accesses are
answered, and its push is. -/
def runsOn (i : Instr) (s : State) : Bool :=
  (match i with
    | .illegal _ => false
    | .call _ => canPush s
    | _ => true)
  && (readAddress i s).all (readable s) && (writeAddress i s).all (writable s)

/-! ### The invariant -/

/-- The stores are in canonical form and the configuration is one the spec allows. -/
def State.wf (s : State) : Bool := Memory.wf s.data && Memory.rising s.prog && s.cfg.wf

/-- The bytes `bs` stand in program space from `addr` on, addresses modulo 4096. -/
def bytesAt (s : State) (addr : Addr) : List Byte → Prop
  | [] => True
  | b :: bs => progRead addr s = .ok b ∧ bytesAt s (addr + 1) bs

/-! ### Agreement of two states -/

/-- X, Y, V and W are unchanged. -/
def SameShort (s t : State) : Prop := t.x = s.x ∧ t.y = s.y ∧ t.v = s.v ∧ t.w = s.w

/-- A, X, Y, V and W are unchanged. -/
def SameRegs (s t : State) : Prop := t.a = s.a ∧ SameShort s t

/-- Every byte of the data store and every control register of the platform is unchanged. -/
def SameData (s t : State) : Prop :=
  (∀ k, Memory.get t.data k = Memory.get s.data k)
  ∧ t.ramBank = s.ramBank ∧ t.windowSel = s.windowSel ∧ t.progBank = s.progBank
  ∧ t.irqOption = s.irqOption

/-- All three flag pairs are unchanged. -/
def SameFlags (s t : State) : Prop :=
  t.normalFlags = s.normalFlags ∧ t.intFlags = s.intFlags ∧ t.nmiFlags = s.nmiFlags

/-- The pair in use in `s` holds `z` and `c` in `t`; the two other pairs are unchanged (10_state R30). -/
def FlagsBecome (s t : State) (z c : Bool) : Prop :=
  match s.mode with
  | .normal => t.normalFlags = ⟨z, c⟩ ∧ t.intFlags = s.intFlags ∧ t.nmiFlags = s.nmiFlags
  | .int => t.normalFlags = s.normalFlags ∧ t.intFlags = ⟨z, c⟩ ∧ t.nmiFlags = s.nmiFlags
  | .nmi => t.normalFlags = s.normalFlags ∧ t.intFlags = s.intFlags ∧ t.nmiFlags = ⟨z, c⟩

/-- The stack is unchanged. -/
def SameStack (s t : State) : Prop := t.sp = s.sp ∧ t.stk = s.stk

/-- The mode and the mode an NMI returns to are unchanged. -/
def SameMode (s t : State) : Prop := t.mode = s.mode ∧ t.nmiRet = s.nmiRet

/-- Every byte of program space, the lines, the inputs to come and the configuration are unchanged. -/
def SameOutside (s t : State) : Prop :=
  t.prog = s.prog ∧ t.lines = s.lines ∧ t.inputs = s.inputs ∧ t.cfg = s.cfg

/-- Everything a data instruction leaves alone: stack, mode, run state, program space, lines,
configuration. -/
def SameRest (s t : State) : Prop :=
  SameStack s t ∧ SameMode s t ∧ t.run = s.run ∧ SameOutside s t

/-- The platform was called with `calls` (newest first), each read among them counted as one draw. -/
def Called (s t : State) (calls : List BusEvent) (reads : Nat) : Prop :=
  t.bus = calls ++ s.bus ∧ t.draws = s.draws + reads

/-- No call was made to the platform. -/
def Silent (s t : State) : Prop := Called s t [] 0

/-- Address `ea` is a plain byte of the data store on this device. -/
def inStore (s : State) (ea : Byte) : Bool :=
  (coreReg ea).isNone && (s.kind ea = .ram || s.kind ea = .pagedRam)

/-- Address `ea` is the control register of kind `k` on this device. -/
def isControl (s : State) (ea : Byte) (k : DataKind) : Bool := (coreReg ea).isNone && s.kind ea = k

/-- Data space, A to W included, differs from that of `s` by one write of `b` to `ea` (20_memory R61,
R63): the location at `ea` holds `b` and every other location is unchanged. -/
def Stored (s t : State) (ea b : Byte) : Prop :=
  t.a = (if ea = 0xFF then b else s.a)
  ∧ t.x = (if ea = 0x80 then b else s.x)
  ∧ t.y = (if ea = 0x81 then b else s.y)
  ∧ t.v = (if ea = 0x82 then b else s.v)
  ∧ t.w = (if ea = 0x83 then b else s.w)
  ∧ (∀ k, Memory.get t.data k =
      if inStore s ea ∧ k = dataKey s ea then b else Memory.get s.data k)
  ∧ t.ramBank = (if isControl s ea .ramBankReg then b else s.ramBank)
  ∧ t.windowSel = (if isControl s ea .windowReg then b else s.windowSel)
  ∧ t.progBank = (if isControl s ea .progBankReg then b else s.progBank)
  ∧ t.irqOption = (if isControl s ea .irqOptionReg then b else s.irqOption)

/-- An accumulator instruction's result: A holds `r`, the pair in use holds `z` and `c`, the program
counter has moved by `len`, and nothing else is changed. -/
def AccResult (s t : State) (r : Byte) (z c : Bool) (len : Nat) : Prop :=
  t.a = r ∧ FlagsBecome s t z c ∧ t.pc.toNat = (s.pc.toNat + len) % 4096
  ∧ SameShort s t ∧ SameData s t ∧ SameRest s t

/-- The data-space address of a short-direct register: 80h + i (10_state R21). -/
def shortAddress : ShortReg → Byte
  | .x => 0x80
  | .y => 0x81
  | .v => 0x82
  | .w => 0x83

/-- The result of an instruction that writes `b` to data space at `ea`: that one location changes, the
pair in use holds `z` and `c`, the program counter has moved by `len`, and nothing else is changed. -/
def StoreResult (s t : State) (ea b : Byte) (z c : Bool) (len : Nat) : Prop :=
  Stored s t ea b ∧ FlagsBecome s t z c ∧ t.pc.toNat = (s.pc.toNat + len) % 4096 ∧ SameRest s t

/-- The stack after a push of `v` (10_state R27). With six levels in use the pointer and levels 1 to 5
stay, and level 6 is as the configuration says. -/
def Pushed (s t : State) (v : Addr) : Prop :=
  (s.sp.val < 6 → t.sp.val = s.sp.val + 1 ∧ t.stk.level (s.sp.val + 1) = v
    ∧ ∀ n, n ≠ s.sp.val + 1 → t.stk.level n = s.stk.level n)
  ∧ (s.sp.val = 6 → t.sp.val = 6 ∧ (∀ n, n ≠ 6 → t.stk.level n = s.stk.level n)
    ∧ t.stk.level 6 = if s.cfg.stackOverflow = .overwrite then v else s.stk.level 6)

/-- The stack and the program counter after a return (10_state R28): the top level is popped, or the
return falls through where the stack is empty. -/
def Popped (s t : State) : Prop :=
  t.stk = s.stk
  ∧ (0 < s.sp.val → t.pc = s.stk.level s.sp.val ∧ t.sp.val = s.sp.val - 1)
  ∧ (s.sp.val = 0 → t.pc.toNat = (s.pc.toNat + 1) % 4096 ∧ t.sp.val = 0)

/-- The number of an interrupt source (60_exceptions R261). -/
def Source.number : Source → Nat
  | .nmi => 0
  | .irq1 => 1
  | .irq2 => 2
  | .irq3 => 3
  | .irq4 => 4

/-- An answer with `f` applied to its next state. -/
def mapNext (f : State → State) : Outcome → Outcome
  | .next t => .next (f t)
  | .fault r => .fault r
  | .refused r => .refused r

/-- The answer of an instruction that completes. -/
def Completes (o : Outcome) (p : State → Prop) : Prop := ∃ t, o = .next t ∧ p t

end Sys2Proof.Machine
end

