-- ==== Sys2Proof/Certificates/Slice0/Obligations.lean ====
section
/-! DEFINITION. The statements for the provers. -/

open Sys2Proof Sys2Proof.Machine

/-! ### Decoding and encoding -/

/-- R118: the bytes that decode to no instruction are exactly the twelve, whatever follows them. -/
def Obligations.TwelveOpcodesAreIllegal : Prop :=
  illegalOpcodes = [0x05, 0x25, 0x45, 0x65, 0x85, 0xA5, 0xC5, 0xE5, 0x77, 0x97, 0xF7, 0x8D]
  ∧ (∀ op b1 b2 : Byte, op ∈ illegalOpcodes → decode [op, b1, b2] = .ok (.illegal op))
  ∧ (∀ op b1 b2 : Byte, op ∉ illegalOpcodes →
      ∃ i, decode [op, b1, b2] = .ok i ∧ i.wellFormed = true ∧ ∀ o, i ≠ .illegal o)

/-- R113: the bit number's three bits stand in op[7:5] in reverse order. -/
def Obligations.BitNumberFieldIsReversed : Prop :=
  (∀ op : Byte, (bitNumber op).val
      = 4 * (op.getLsbD 5).toNat + 2 * (op.getLsbD 6).toNat + (op.getLsbD 7).toNat)
  ∧ (∀ low : BitVec 5, (List.range 8).map (fun k => (bitNumber (BitVec.ofNat 3 k ++ low)).val)
      = [0, 4, 2, 6, 1, 5, 3, 7])

/-- R116: address[11:4] is the second byte and address[3:0] is op[7:4], for JP and for CALL. -/
def Obligations.ExtendedAddressHalves : Prop :=
  ∀ (c : BitVec 4) (ab : Byte) (abc : Addr), abc.toNat = 16 * ab.toNat + c.toNat →
    decode [c ++ 0b0001#4, ab] = .ok (.call abc) ∧ decode [c ++ 0b1001#4, ab] = .ok (.jp abc)

/-- A few words of the spec's examples decode to the instructions they stand for. -/
def Obligations.ExampleWordsDecode : Prop :=
  decode [0xD9, 0x5C] = .ok (.jp 0x5CD)
  ∧ decode [0xC1, 0x8D] = .ok (.call 0x8DC)
  ∧ decode [0x23, 0x70, 0xEA] = .ok (.jrr 4 0x70 0xEA)
  ∧ decode [0x3B, 0xFF] = .ok (.setBit 4 0xFF)
  ∧ decode [0x16] = .ok (.jrc 2)
  ∧ decode [0x0D, 0x34, 0x45] = .ok (.ldiDir 0x34 0x45)
  ∧ decode [0xCF] = .ok (.subInd .y)
  ∧ decode [0x9D] = .ok (.decReg .v)
  ∧ decode [0x4D] = .ok .reti
  ∧ decode [0x5F, 0xFF] = .ok .slaA
  ∧ decode [0x04] = .ok .nop

/-- Decode and encode agree: the bytes of every well-formed instruction, whatever stands after them,
decode to that instruction. -/
def Obligations.DecodeOfEncodeIsIdentity : Prop :=
  ∀ (i : Instr) (rest : List Byte), i.wellFormed = true → decode (encode i ++ rest) = .ok i

/-- The other direction: what the decoder answers is well formed, and its encoding is the bytes that
were read. -/
def Obligations.EncodeOfDecodeIsTheBytesRead : Prop :=
  ∀ (bs : List Byte) (i : Instr), decode bs = .ok i →
    i.wellFormed = true ∧ encode i = bs.take (encode i).length

/-! ### Data space, program space and the stack -/

/-- R62: MemRead of FFh answers A, of 80h to 83h X, Y, V, W, with no side effect; of any other address
it is one call to the platform, which changes nothing else in the machine. R64: what answers at 00h to 3Fh
is what the page selected by the data RAM banking register has there, RAM or I/O, and from 40h on that
register changes nothing. The spec marks R62 as derived; the fault of an absent location (log 9) and the
tables of pages (log 5) are the model's. -/
def Obligations.DataReadRouting : Prop :=
  (∀ s : State, dataRead 0xFF s = .ok (s.a, s) ∧ dataRead 0x80 s = .ok (s.x, s)
    ∧ dataRead 0x81 s = .ok (s.y, s) ∧ dataRead 0x82 s = .ok (s.v, s) ∧ dataRead 0x83 s = .ok (s.w, s))
  ∧ (∀ (s : State) (ea : Byte), ea ∉ [0xFF, 0x80, 0x81, 0x82, 0x83] → s.kind ea ≠ .absent →
      dataRead ea s = .ok (platformByte s ea,
        { s with draws := s.draws + 1, bus := .read ea (platformByte s ea) :: s.bus }))
  ∧ (∀ (s : State) (ea : Byte), ea ∉ [0xFF, 0x80, 0x81, 0x82, 0x83] → s.kind ea = .absent →
      dataRead ea s = .error (.dataNotImplemented ea))
  ∧ (∀ (s : State) (ea : Byte), ea.toNat < 0x40 →
      s.kind ea = kindOf (s.cfg.pageMaps.getD (s.cfg.ramPages.getD s.ramBank.toNat 0) s.cfg.dataMap) ea)
  ∧ (∀ (s : State) (ea v : Byte), s.cfg.wf = true → 0x40 ≤ ea.toNat →
      dataByte { s with ramBank := v } ea = dataByte s ea
      ∧ readable { s with ramBank := v } ea = readable s ea
      ∧ writable { s with ramBank := v } ea = writable s ea)

/-- R63: MemWrite changes the one location it names; a write to the data ROM window or to a location
that is not implemented stops the model. The spec marks R63 as derived; the two faults are the model's
(log 9). -/
def Obligations.DataWriteRouting : Prop :=
  (∀ (s : State) (ea b : Byte), writable s ea = true →
    ∃ t, dataWrite ea b s = .ok t ∧ Stored s t ea b ∧ SameFlags s t ∧ t.pc = s.pc ∧ SameRest s t
      ∧ Called s t (writeCalls ea b) 0)
  ∧ (∀ (s : State) (ea : Byte), ea ∈ [0xFF, 0x80, 0x81, 0x82, 0x83] → writable s ea = true)
  ∧ (∀ (s : State) (ea : Byte), ea ∉ [0xFF, 0x80, 0x81, 0x82, 0x83] →
      (writable s ea = true ↔ s.kind ea ≠ .absent ∧ s.kind ea ≠ .romWindow))
  ∧ (∀ (s : State) (ea b : Byte), ea ∉ [0xFF, 0x80, 0x81, 0x82, 0x83] → s.kind ea = .romWindow →
      dataWrite ea b s = .error (.romWrite ea))
  ∧ (∀ (s : State) (ea b : Byte), ea ∉ [0xFF, 0x80, 0x81, 0x82, 0x83] → s.kind ea = .absent →
      dataWrite ea b s = .error (.dataNotImplemented ea))

/-- A core location, and a plain byte of the data store, returns the last value written; a paged byte is
the one of the page that the data RAM banking register selects, and a write under one page leaves the bytes
of another. R78 says the first of core locations only. For a plain byte it is the model's choice: the kinds
`ram` and `pagedRam` and the tables of pages are the model's (log 5), and that a read sees the latest write
in program order is the spec's own decision D9 (log 24). -/
def Obligations.ReadAfterWriteReturnsTheByte : Prop :=
  (∀ (s : State) (ea b : Byte), ((coreReg ea).isSome = true ∨ inStore s ea = true) →
    ∃ t u, dataWrite ea b s = .ok t ∧ dataRead ea t = .ok (b, u))
  ∧ (∀ (s : State) (ea : Byte), coreReg ea = none → s.kind ea = .pagedRam →
      dataByte s ea = Memory.get s.data (ea.toNat + 256 * s.cfg.ramPages.getD s.ramBank.toNat 0))
  ∧ (∀ (s : State) (ea b : Byte), coreReg ea = none → s.kind ea = .pagedRam →
      ∃ t, dataWrite ea b s = .ok t
        ∧ ∀ v ea' : Byte, s.cfg.ramPages.getD v.toNat 0 ≠ s.cfg.ramPages.getD s.ramBank.toNat 0 →
            coreReg ea' = none → { s with ramBank := v }.kind ea' = .pagedRam →
            dataByte { t with ramBank := v } ea' = dataByte { s with ramBank := v } ea')

/-- Equal memories are equal data: two stores in canonical form that read alike are the same list. The
form, and that an unlisted byte reads `unwrittenByte`, are the model's own (log 7). -/
def Obligations.CanonicalStoresAreEqual : Prop :=
  ∀ m n : Memory, Memory.wf m = true → Memory.wf n = true →
    (∀ k, Memory.get m k = Memory.get n k) → m = n

/-- A read of 40h + k in the data ROM window returns byte k of the block the window register selects.
The table of blocks is the configuration's (log 5). -/
def Obligations.WindowReadsSelectedBlock : Prop :=
  ∀ (s : State) (k : Nat) (b : Byte), k < 64 → s.kind (BitVec.ofNat 8 (0x40 + k)) = .romWindow →
    Memory.find s.prog (64 * s.cfg.windowBlocks.getD s.windowSel.toNat 0 + k) = some b →
    ∃ t, dataRead (BitVec.ofNat 8 (0x40 + k)) s = .ok (b, t) ∧ SameRegs s t ∧ SameData s t ∧ SameRest s t

/-- Program addresses 800h to FFFh do not depend on the banking register; 000h to 7FFh show the page it
selects, no address of one page standing for another. The table of pages is the configuration's
(log 5). -/
def Obligations.ProgramPagingIsLowerHalfOnly : Prop :=
  (∀ (s : State) (v : Byte) (addr : Addr), 0x800 ≤ addr.toNat →
    progRead addr { s with progBank := v } = progRead addr s)
  ∧ (∀ (s : State) (addr : Addr) (b : Byte), addr.toNat < 0x800 →
      Memory.find s.prog (addr.toNat + 4096 * s.cfg.progPages.getD s.progBank.toNat 0) = some b →
      progRead addr s = .ok b)
  ∧ (∀ (s : State) (addr addr' : Addr), progKey s addr = progKey s addr' → addr = addr')

/-- R27: Push. What the seventh push does is the spec's own decision D4, a parameter here (log 10). -/
def Obligations.PushFillsTheNextLevel : Prop :=
  (∀ (s : State) (v : Addr), canPush s = true →
    ∃ t, push v s = .ok t ∧ Pushed s t v ∧ t = { s with sp := t.sp, stk := t.stk })
  ∧ (∀ (s : State) (v : Addr), canPush s = false → push v s = .error (.stackOverflow s.pc))
  ∧ State.reset.cfg.stackOverflow = .overwrite

/-- R28: Pop, and the fall-through of a return where the stack is empty. -/
def Obligations.PopTakesTheTopLevel : Prop :=
  (∀ s : State, 0 < s.sp.val → ∃ t, pop s = some (s.stk.level s.sp.val, t)
    ∧ t.sp.val = s.sp.val - 1 ∧ t = { s with sp := t.sp })
  ∧ (∀ s : State, s.sp.val = 0 → pop s = none
      ∧ popPc s = { s with pc := BitVec.ofNat 12 (s.pc.toNat + 1) })

/-! ### Load and store -/

/-- R141, R143, R145, R147: LD A from a register, indirect and direct, and LDI A. -/
def Obligations.LoadAccumulatorResults : Prop :=
  (decode [0x35] = .ok (.ldAReg .x) ∧ decode [0x75] = .ok (.ldAReg .y) ∧ decode [0xB5] = .ok (.ldAReg .v)
    ∧ decode [0xF5] = .ok (.ldAReg .w) ∧ decode [0x07] = .ok (.ldAInd .x) ∧ decode [0x0F] = .ok (.ldAInd .y)
    ∧ (∀ rr, decode [0x1F, rr] = .ok (.ldADir rr)) ∧ (∀ nn, decode [0x17, nn] = .ok (.ldiA nn)))
  ∧ (∀ (s : State) (r : ShortReg), Completes (exec (.ldAReg r) s) fun t =>
      AccResult s t (dataByte s (shortAddress r)) (dataByte s (shortAddress r) = 0) s.flags.c 1 ∧ Silent s t)
  ∧ (∀ (s : State) (p : Pointer), readable s (s.pointer p) = true → Completes (exec (.ldAInd p) s) fun t =>
      AccResult s t (dataByte s (s.pointer p)) (dataByte s (s.pointer p) = 0) s.flags.c 1
      ∧ Called s t (readCalls s (s.pointer p)) (readCalls s (s.pointer p)).length)
  ∧ (∀ (s : State) (rr : Byte), readable s rr = true → Completes (exec (.ldADir rr) s) fun t =>
      AccResult s t (dataByte s rr) (dataByte s rr = 0) s.flags.c 2
      ∧ Called s t (readCalls s rr) (readCalls s rr).length)
  ∧ (∀ (s : State) (nn : Byte), Completes (exec (.ldiA nn) s) fun t =>
      AccResult s t nn (nn = 0) s.flags.c 2 ∧ Silent s t)

/-- R142, R144, R146: LD of A into a register, indirect and direct; Z comes from the byte moved and the
destination is not read. That a store does not read is the spec's own decision D10 (log 24). -/
def Obligations.StoreAccumulatorResults : Prop :=
  (decode [0x3D] = .ok (.ldRegA .x) ∧ decode [0x7D] = .ok (.ldRegA .y) ∧ decode [0xBD] = .ok (.ldRegA .v)
    ∧ decode [0xFD] = .ok (.ldRegA .w) ∧ decode [0x87] = .ok (.ldIndA .x) ∧ decode [0x8F] = .ok (.ldIndA .y)
    ∧ (∀ rr, decode [0x9F, rr] = .ok (.ldDirA rr)))
  ∧ (∀ (s : State) (r : ShortReg), Completes (exec (.ldRegA r) s) fun t =>
      StoreResult s t (shortAddress r) s.a (s.a = 0) s.flags.c 1 ∧ Silent s t)
  ∧ (∀ (s : State) (p : Pointer), writable s (s.pointer p) = true → Completes (exec (.ldIndA p) s) fun t =>
      StoreResult s t (s.pointer p) s.a (s.a = 0) s.flags.c 1 ∧ Called s t (writeCalls (s.pointer p) s.a) 0)
  ∧ (∀ (s : State) (rr : Byte), writable s rr = true → Completes (exec (.ldDirA rr) s) fun t =>
      StoreResult s t rr s.a (s.a = 0) s.flags.c 2 ∧ Called s t (writeCalls rr s.a) 0)

/-- R148, R131, R170: LDI rr,nn and its spelling CLR rr write the byte and no flag, even where rr is A,
and do not read the destination. -/
def Obligations.LoadImmediateToDataSpaceResults : Prop :=
  (∀ rr nn, decode [0x0D, rr, nn] = .ok (if nn = 0 then .clrDir rr else .ldiDir rr nn))
  ∧ (∀ (s : State) (rr nn : Byte), writable s rr = true → Completes (exec (.ldiDir rr nn) s) fun t =>
      StoreResult s t rr nn s.flags.z s.flags.c 3 ∧ SameFlags s t ∧ Called s t (writeCalls rr nn) 0)
  ∧ (∀ (s : State) (rr : Byte), writable s rr = true → Completes (exec (.clrDir rr) s) fun t =>
      StoreResult s t rr 0 s.flags.z s.flags.c 3 ∧ SameFlags s t ∧ Called s t (writeCalls rr 0) 0)

/-! ### Arithmetic and logic -/

/-- R163, R164, R165: ADD and ADDI. -/
def Obligations.AddResults : Prop :=
  ((∀ rr, decode [0x5F, rr] = .ok (if rr = 0xFF then .slaA else .addDir rr))
    ∧ decode [0x47] = .ok (.addInd .x) ∧ decode [0x4F] = .ok (.addInd .y)
    ∧ (∀ nn, decode [0x57, nn] = .ok (.addi nn)))
  ∧ (∀ (s : State) (rr : Byte), readable s rr = true → Completes (exec (.addDir rr) s) fun t =>
      let sum := s.a.toNat + (dataByte s rr).toNat
      AccResult s t (BitVec.ofNat 8 sum) (sum % 256 = 0) (256 ≤ sum) 2
      ∧ Called s t (readCalls s rr) (readCalls s rr).length)
  ∧ (∀ (s : State) (p : Pointer), readable s (s.pointer p) = true → Completes (exec (.addInd p) s) fun t =>
      let sum := s.a.toNat + (dataByte s (s.pointer p)).toNat
      AccResult s t (BitVec.ofNat 8 sum) (sum % 256 = 0) (256 ≤ sum) 1
      ∧ Called s t (readCalls s (s.pointer p)) (readCalls s (s.pointer p)).length)
  ∧ (∀ (s : State) (nn : Byte), Completes (exec (.addi nn) s) fun t =>
      let sum := s.a.toNat + nn.toNat
      AccResult s t (BitVec.ofNat 8 sum) (sum % 256 = 0) (256 ≤ sum) 2 ∧ Silent s t)

/-- R183, R184, R185: SUB and SUBI; C is the borrow, clear where A equals the source. -/
def Obligations.SubtractResults : Prop :=
  ((∀ rr, decode [0xDF, rr] = .ok (if rr = 0xFF then .clrA else .subDir rr))
    ∧ decode [0xC7] = .ok (.subInd .x) ∧ decode [0xCF] = .ok (.subInd .y)
    ∧ (∀ nn, decode [0xD7, nn] = .ok (.subi nn)))
  ∧ (∀ (s : State) (rr : Byte), readable s rr = true → Completes (exec (.subDir rr) s) fun t =>
      let src := dataByte s rr
      AccResult s t (BitVec.ofInt 8 (s.a.toNat - src.toNat)) (s.a = src) (s.a.toNat < src.toNat) 2
      ∧ Called s t (readCalls s rr) (readCalls s rr).length)
  ∧ (∀ (s : State) (p : Pointer), readable s (s.pointer p) = true → Completes (exec (.subInd p) s) fun t =>
      let src := dataByte s (s.pointer p)
      AccResult s t (BitVec.ofInt 8 (s.a.toNat - src.toNat)) (s.a = src) (s.a.toNat < src.toNat) 1
      ∧ Called s t (readCalls s (s.pointer p)) (readCalls s (s.pointer p)).length)
  ∧ (∀ (s : State) (nn : Byte), Completes (exec (.subi nn) s) fun t =>
      AccResult s t (BitVec.ofInt 8 (s.a.toNat - nn.toNat)) (s.a = nn) (s.a.toNat < nn.toNat) 2
      ∧ Silent s t)

/-- R172, R173, R174: CP and CPI write Z and C only. -/
def Obligations.CompareResults : Prop :=
  ((∀ rr, decode [0x3F, rr] = .ok (.cpDir rr)) ∧ decode [0x27] = .ok (.cpInd .x)
    ∧ decode [0x2F] = .ok (.cpInd .y) ∧ (∀ nn, decode [0x37, nn] = .ok (.cpi nn)))
  ∧ (∀ (s : State) (rr : Byte), readable s rr = true → Completes (exec (.cpDir rr) s) fun t =>
      AccResult s t s.a (s.a = dataByte s rr) (s.a.toNat < (dataByte s rr).toNat) 2
      ∧ Called s t (readCalls s rr) (readCalls s rr).length)
  ∧ (∀ (s : State) (p : Pointer), readable s (s.pointer p) = true → Completes (exec (.cpInd p) s) fun t =>
      AccResult s t s.a (s.a = dataByte s (s.pointer p)) (s.a.toNat < (dataByte s (s.pointer p)).toNat) 1
      ∧ Called s t (readCalls s (s.pointer p)) (readCalls s (s.pointer p)).length)
  ∧ (∀ (s : State) (nn : Byte), Completes (exec (.cpi nn) s) fun t =>
      AccResult s t s.a (s.a = nn) (s.a.toNat < nn.toNat) 2 ∧ Silent s t)

/-- R166, R167, R168: AND and ANDI; C is unchanged. -/
def Obligations.AndResults : Prop :=
  ((∀ rr, decode [0xBF, rr] = .ok (.andDir rr)) ∧ decode [0xA7] = .ok (.andInd .x)
    ∧ decode [0xAF] = .ok (.andInd .y) ∧ (∀ nn, decode [0xB7, nn] = .ok (.andi nn)))
  ∧ (∀ (s : State) (rr : Byte), readable s rr = true → Completes (exec (.andDir rr) s) fun t =>
      AccResult s t (s.a &&& dataByte s rr) (s.a &&& dataByte s rr = 0) s.flags.c 2
      ∧ Called s t (readCalls s rr) (readCalls s rr).length)
  ∧ (∀ (s : State) (p : Pointer), readable s (s.pointer p) = true → Completes (exec (.andInd p) s) fun t =>
      AccResult s t (s.a &&& dataByte s (s.pointer p)) (s.a &&& dataByte s (s.pointer p) = 0) s.flags.c 1
      ∧ Called s t (readCalls s (s.pointer p)) (readCalls s (s.pointer p)).length)
  ∧ (∀ (s : State) (nn : Byte), Completes (exec (.andi nn) s) fun t =>
      AccResult s t (s.a &&& nn) (s.a &&& nn = 0) s.flags.c 2 ∧ Silent s t)

/-- R175, R176, R177: DEC of a register, of an indirect and of a direct location; C is unchanged, and
the location is read once and then written once. -/
def Obligations.DecrementResults : Prop :=
  (decode [0x1D] = .ok (.decReg .x) ∧ decode [0x5D] = .ok (.decReg .y) ∧ decode [0x9D] = .ok (.decReg .v)
    ∧ decode [0xDD] = .ok (.decReg .w) ∧ decode [0xE7] = .ok (.decInd .x) ∧ decode [0xEF] = .ok (.decInd .y)
    ∧ (∀ rr, decode [0xFF, rr] = .ok (if rr = 0xFF then .decA else .decDir rr)))
  ∧ (∀ (s : State) (r : ShortReg), Completes (exec (.decReg r) s) fun t =>
      let v := BitVec.ofInt 8 ((dataByte s (shortAddress r)).toNat - 1)
      StoreResult s t (shortAddress r) v (dataByte s (shortAddress r) = 1) s.flags.c 1 ∧ Silent s t)
  ∧ (∀ (s : State) (p : Pointer), writable s (s.pointer p) = true → Completes (exec (.decInd p) s) fun t =>
      let v := BitVec.ofInt 8 ((dataByte s (s.pointer p)).toNat - 1)
      StoreResult s t (s.pointer p) v (dataByte s (s.pointer p) = 1) s.flags.c 1
      ∧ Called s t (writeCalls (s.pointer p) v ++ readCalls s (s.pointer p))
          (readCalls s (s.pointer p)).length)
  ∧ (∀ (s : State) (rr : Byte), writable s rr = true → Completes (exec (.decDir rr) s) fun t =>
      let v := BitVec.ofInt 8 ((dataByte s rr).toNat - 1)
      StoreResult s t rr v (dataByte s rr = 1) s.flags.c 2
      ∧ Called s t (writeCalls rr v ++ readCalls s rr) (readCalls s rr).length)
  ∧ (∀ s : State, Completes (exec .decA s) fun t =>
      AccResult s t (BitVec.ofInt 8 (s.a.toNat - 1)) (s.a = 1) s.flags.c 2 ∧ Silent s t)

/-- R178, R179, R180: INC of a register, of an indirect and of a direct location; C is unchanged, and
the location is read once and then written once. -/
def Obligations.IncrementResults : Prop :=
  (decode [0x15] = .ok (.incReg .x) ∧ decode [0x55] = .ok (.incReg .y) ∧ decode [0x95] = .ok (.incReg .v)
    ∧ decode [0xD5] = .ok (.incReg .w) ∧ decode [0x67] = .ok (.incInd .x) ∧ decode [0x6F] = .ok (.incInd .y)
    ∧ (∀ rr, decode [0x7F, rr] = .ok (if rr = 0xFF then .incA else .incDir rr)))
  ∧ (∀ (s : State) (r : ShortReg), Completes (exec (.incReg r) s) fun t =>
      let v := BitVec.ofNat 8 ((dataByte s (shortAddress r)).toNat + 1)
      StoreResult s t (shortAddress r) v (dataByte s (shortAddress r) = 0xFF) s.flags.c 1 ∧ Silent s t)
  ∧ (∀ (s : State) (p : Pointer), writable s (s.pointer p) = true → Completes (exec (.incInd p) s) fun t =>
      let v := BitVec.ofNat 8 ((dataByte s (s.pointer p)).toNat + 1)
      StoreResult s t (s.pointer p) v (dataByte s (s.pointer p) = 0xFF) s.flags.c 1
      ∧ Called s t (writeCalls (s.pointer p) v ++ readCalls s (s.pointer p))
          (readCalls s (s.pointer p)).length)
  ∧ (∀ (s : State) (rr : Byte), writable s rr = true → Completes (exec (.incDir rr) s) fun t =>
      let v := BitVec.ofNat 8 ((dataByte s rr).toNat + 1)
      StoreResult s t rr v (dataByte s rr = 0xFF) s.flags.c 2
      ∧ Called s t (writeCalls rr v ++ readCalls s rr) (readCalls s rr).length)
  ∧ (∀ s : State, Completes (exec .incA s) fun t =>
      AccResult s t (BitVec.ofNat 8 (s.a.toNat + 1)) (s.a = 0xFF) s.flags.c 2 ∧ Silent s t)

/-- R171: COM A complements A; C takes the old bit 7. -/
def Obligations.ComplementResult : Prop :=
  decode [0x2D] = .ok .com
  ∧ ∀ s : State, Completes (exec .com s) fun t =>
      AccResult s t (BitVec.ofNat 8 (255 - s.a.toNat)) (s.a = 0xFF) (128 ≤ s.a.toNat) 1 ∧ Silent s t

/-- R181: RLC A is a 9-bit rotate of C and A one place to the left. -/
def Obligations.RotateLeftResult : Prop :=
  decode [0xAD] = .ok .rlc
  ∧ ∀ s : State, Completes (exec .rlc s) fun t =>
      let v := BitVec.ofNat 8 (2 * s.a.toNat + s.flags.c.toNat)
      AccResult s t v (v = 0) (128 ≤ s.a.toNat) 1 ∧ Silent s t

/-- R182, R129: SLA A doubles A; C takes the old bit 7. The spec derives R182's result from R163. -/
def Obligations.ShiftLeftResult : Prop :=
  decode [0x5F, 0xFF] = .ok .slaA
  ∧ ∀ s : State, Completes (exec .slaA s) fun t =>
      let v := BitVec.ofNat 8 (2 * s.a.toNat)
      AccResult s t v (v = 0) (128 ≤ s.a.toNat) 2 ∧ Silent s t ∧ v.getLsbD 0 = false

/-- R169, R130: CLR A clears A, sets Z and resets C. -/
def Obligations.ClearAccumulatorResult : Prop :=
  decode [0xDF, 0xFF] = .ok .clrA
  ∧ ∀ s : State, Completes (exec .clrA s) fun t => AccResult s t 0 true false 2 ∧ Silent s t

/-! ### Branches, jumps, calls and returns -/

/-- R201 to R204: the flag branches change the program counter only, and test the pair in use. The target
pc + 1 + e is the spec's derivation in R114, modulo 4096 by its decision D3 (log 23). -/
def Obligations.FlagBranchResults : Prop :=
  ((∀ e : BitVec 5, decode [e ++ 0b000#3] = .ok (.jrnz e)) ∧ (∀ e : BitVec 5, decode [e ++ 0b010#3] = .ok (.jrnc e))
    ∧ (∀ e : BitVec 5, decode [e ++ 0b100#3] = .ok (if e = 0 then .nop else .jrz e))
    ∧ (∀ e : BitVec 5, decode [e ++ 0b110#3] = .ok (.jrc e)))
  ∧ ∀ (s : State) (e : BitVec 5),
      let taken := { s with pc := BitVec.ofInt 12 (s.pc.toNat + 1 + e.toInt) }
      let fallen := { s with pc := BitVec.ofNat 12 (s.pc.toNat + 1) }
      exec (.jrnz e) s = .next (if s.flags.z = false then taken else fallen)
      ∧ exec (.jrnc e) s = .next (if s.flags.c = false then taken else fallen)
      ∧ exec (.jrz e) s = .next (if s.flags.z = true then taken else fallen)
      ∧ exec (.jrc e) s = .next (if s.flags.c = true then taken else fallen)

/-- R205, R206: JRR and JRS read the byte once, put the tested bit into C whether or not they branch, and
leave Z and data space alone. BT_BASE is 2, and with it the target lies -126 to +129 from the opcode
(R115); the base is the spec's own decision D6, a parameter here (log 11). -/
def Obligations.BitTestBranchResults : Prop :=
  State.reset.cfg.btBase = 2 ∧ (∀ ee : Byte, -126 ≤ 2 + ee.toInt ∧ 2 + ee.toInt ≤ 129)
  ∧ (∀ (b : Fin 8) (rr ee : Byte),
    decode [([0x03, 0x83, 0x43, 0xC3, 0x23, 0xA3, 0x63, 0xE3] : List Byte).getD b.val 0, rr, ee]
      = .ok (.jrr b rr ee)
    ∧ decode [([0x13, 0x93, 0x53, 0xD3, 0x33, 0xB3, 0x73, 0xF3] : List Byte).getD b.val 0, rr, ee]
      = .ok (.jrs b rr ee))
  ∧ ∀ (s : State) (b : Fin 8) (rr ee : Byte), readable s rr = true →
      let bit := (dataByte s rr).getLsbD b.val
      let taken : Addr := BitVec.ofInt 12 (s.pc.toNat + s.cfg.btBase.toNat + ee.toInt)
      let fallen : Addr := BitVec.ofNat 12 (s.pc.toNat + 3)
      (Completes (exec (.jrr b rr ee) s) fun t =>
        t.pc = (if bit = false then taken else fallen) ∧ FlagsBecome s t s.flags.z bit ∧ SameRegs s t
        ∧ SameData s t ∧ SameRest s t ∧ Called s t (readCalls s rr) (readCalls s rr).length)
      ∧ (Completes (exec (.jrs b rr ee) s) fun t =>
        t.pc = (if bit = true then taken else fallen) ∧ FlagsBecome s t s.flags.z bit ∧ SameRegs s t
        ∧ SameData s t ∧ SameRest s t ∧ Called s t (readCalls s rr) (readCalls s rr).length)

/-- R241: NOP moves the program counter by one and changes nothing else. -/
def Obligations.NopResult : Prop :=
  decode [0x04] = .ok .nop
  ∧ ∀ s : State, exec .nop s = .next { s with pc := BitVec.ofNat 12 (s.pc.toNat + 1) }

/-- R221: JP loads all 12 bits of the program counter and changes nothing else. -/
def Obligations.JumpResult : Prop :=
  (∀ (c : BitVec 4) (ab : Byte), decode [c ++ 0b1001#4, ab] = .ok (.jp (ab ++ c)))
  ∧ ∀ (s : State) (abc : Addr), exec (.jp abc) s = .next { s with pc := abc }

/-- R222: CALL pushes the address of the instruction after it, then loads the program counter. That the
value stacked is pc + 2 is the spec's own decision D5 (log 23), and what the push does with six levels in use
is R27's decision D4 (log 10). -/
def Obligations.CallResult : Prop :=
  (∀ (c : BitVec 4) (ab : Byte), decode [c ++ 0b0001#4, ab] = .ok (.call (ab ++ c)))
  ∧ ∀ (s : State) (abc : Addr), canPush s = true → Completes (exec (.call abc) s) fun t =>
      t.pc = abc ∧ Pushed s t (BitVec.ofNat 12 (s.pc.toNat + 2))
      ∧ SameFlags s t ∧ SameRegs s t ∧ SameData s t ∧ SameMode s t ∧ t.run = s.run ∧ SameOutside s t
      ∧ Silent s t

/-- Where the configuration says that a seventh push stops, CALL and interrupt entry stop there. The
choice of stopping is the model's parameter (log 10). -/
def Obligations.SeventhPushStopsWhereConfigured : Prop :=
  ∀ s : State, s.sp.val = 6 → s.cfg.stackOverflow = .stop →
    (∀ abc, exec (.call abc) s = .fault (.stackOverflow s.pc))
    ∧ ∀ n, enterInterrupt n s = .fault (.stackOverflow s.pc)

/-- R242: RET pops the program counter or falls through; the mode and the flags do not change. -/
def Obligations.ReturnResult : Prop :=
  decode [0xCD] = .ok .ret
  ∧ ∀ s : State, Completes (exec .ret s) fun t =>
      Popped s t ∧ SameFlags s t ∧ SameRegs s t ∧ SameData s t ∧ SameMode s t ∧ t.run = s.run
      ∧ SameOutside s t ∧ Silent s t

/-- R245: RETI pops the program counter or falls through, leaves NMI mode for `nmi_ret` and any other
mode for NORMAL, and writes no flag. The return from an NMI to INT mode and RETI in NORMAL mode follow the
spec's own decisions D8 and D7 (log 21). -/
def Obligations.ReturnFromInterruptResult : Prop :=
  decode [0x4D] = .ok .reti
  ∧ ∀ s : State, Completes (exec .reti s) fun t =>
      Popped s t
      ∧ t.mode = (if s.mode = .nmi then (if s.nmiRet = .int then .int else .normal) else .normal)
      ∧ t.nmiRet = s.nmiRet ∧ SameFlags s t ∧ SameRegs s t ∧ SameData s t ∧ t.run = s.run
      ∧ SameOutside s t ∧ Silent s t

/-- R247, R248: STOP and WAIT move the program counter by one, stop the core, tell the platform, and
change nothing else. -/
def Obligations.StopAndWaitResults : Prop :=
  decode [0x6D] = .ok .stop ∧ decode [0xED] = .ok .wait
  ∧ ∀ s : State,
      exec .stop s = .next { s with
        pc := BitVec.ofNat 12 (s.pc.toNat + 1), run := .stopped, bus := .haltStop :: s.bus }
      ∧ exec .wait s = .next { s with
        pc := BitVec.ofNat 12 (s.pc.toNat + 1), run := .waiting, bus := .haltWait :: s.bus }

/-! ### Bits -/

/-- R231, R232: RES and SET read the whole byte and write it back with one bit changed; no flag. -/
def Obligations.BitManipulationResults : Prop :=
  (∀ (b : Fin 8) (rr : Byte),
    decode [([0x0B, 0x8B, 0x4B, 0xCB, 0x2B, 0xAB, 0x6B, 0xEB] : List Byte).getD b.val 0, rr]
      = .ok (.resBit b rr)
    ∧ decode [([0x1B, 0x9B, 0x5B, 0xDB, 0x3B, 0xBB, 0x7B, 0xFB] : List Byte).getD b.val 0, rr]
      = .ok (.setBit b rr))
  ∧ (∀ (s : State) (b : Fin 8) (rr : Byte), writable s rr = true → Completes (exec (.resBit b rr) s) fun t =>
      ∃ v : Byte, (∀ n < 8, v.getLsbD n = if n = b.val then false else (dataByte s rr).getLsbD n)
        ∧ StoreResult s t rr v s.flags.z s.flags.c 2 ∧ SameFlags s t
        ∧ Called s t (writeCalls rr v ++ readCalls s rr) (readCalls s rr).length)
  ∧ (∀ (s : State) (b : Fin 8) (rr : Byte), writable s rr = true → Completes (exec (.setBit b rr) s) fun t =>
      ∃ v : Byte, (∀ n < 8, v.getLsbD n = if n = b.val then true else (dataByte s rr).getLsbD n)
        ∧ StoreResult s t rr v s.flags.z s.flags.c 2 ∧ SameFlags s t
        ∧ Called s t (writeCalls rr v ++ readCalls s rr) (readCalls s rr).length)

/-! ### Illegal opcodes and other spellings -/

/-- R119: an illegal opcode stops the model with its address and its byte: the spec's own decision D1
(log 12). -/
def Obligations.IllegalOpcodeStops : Prop :=
  ∀ (s : State) (op : Byte), exec (.illegal op) s = .fault (.illegalOpcode s.pc op)

/-- R128 to R132: the bytes of each other spelling, and that it means what its core instruction means. -/
def Obligations.SpellingsMeanTheirCoreInstruction : Prop :=
  (decode [0x04] = .ok .nop ∧ decode [0x5F, 0xFF] = .ok .slaA ∧ decode [0xDF, 0xFF] = .ok .clrA
    ∧ decode [0x7F, 0xFF] = .ok .incA ∧ decode [0xFF, 0xFF] = .ok .decA
    ∧ ∀ rr, decode [0x0D, rr, 0x00] = .ok (.clrDir rr))
  ∧ ∀ s : State, exec .nop s = exec (.jrz 0) s ∧ exec .slaA s = exec (.addDir 0xFF) s
    ∧ exec .clrA s = exec (.subDir 0xFF) s ∧ exec .incA s = exec (.incDir 0xFF) s
    ∧ exec .decA s = exec (.decDir 0xFF) s ∧ ∀ rr, exec (.clrDir rr) s = exec (.ldiDir rr 0) s

/-! ### Over all instructions -/

/-- An instruction runs to its end exactly where `runsOn` says: it is legal, the data-space locations it
touches answer, and its push is answered. Nothing else stops an instruction, and none is refused. The
hardware raises no exception; the stops are the model's: a location that does not answer (log 9), a push
that is configured to stop (log 10), an illegal opcode (log 12). -/
def Obligations.InstructionsCompleteExactlyWhereTheyCan : Prop :=
  ∀ (i : Instr) (s : State),
    ((∃ t, exec i s = .next t) ↔ runsOn i s = true) ∧ ∀ r, exec i s ≠ .refused r

/-- The reason an instruction stops names the cause. -/
def Obligations.FaultsNameTheirCause : Prop :=
  ∀ (i : Instr) (s : State) (f : Fault), exec i s = .fault f →
    (∃ op, i = .illegal op ∧ f = .illegalOpcode s.pc op)
    ∨ (∃ abc, i = .call abc ∧ s.sp.val = 6 ∧ s.cfg.stackOverflow = .stop ∧ f = .stackOverflow s.pc)
    ∨ (∃ ea, (readAddress i s = some ea ∨ writeAddress i s = some ea) ∧ s.kind ea = .absent
        ∧ f = .dataNotImplemented ea)
    ∨ (∃ ea, writeAddress i s = some ea ∧ s.kind ea = .romWindow ∧ f = .romWrite ea)

/-- R76: the calls an instruction makes to the platform are one read of its read address, then one write
of its write address, and none for a core location; STOP and WAIT give their notice and nothing else. The
spec marks R76 as derived, and that a store does not read as its decision D10 (log 24). -/
def Obligations.AccessesFollowTheTable : Prop :=
  ∀ (i : Instr) (s t : State), exec i s = .next t →
    ∃ b, Called s t
      ((if i = .stop then [.haltStop] else if i = .wait then [.haltWait] else [])
        ++ (match writeAddress i s with | some ea => writeCalls ea b | none => [])
        ++ (match readAddress i s with | some ea => readCalls s ea | none => []))
      (match readAddress i s with | some ea => (readCalls s ea).length | none => 0)

/-- An instruction with a write address writes one byte there and no other location of data space: core
locations, data store and control registers are those of one write. One without a write address changes no
byte of the data store and no control register. -/
def Obligations.StoresOnlyAtTheWriteAddress : Prop :=
  ∀ (i : Instr) (s t : State), exec i s = .next t →
    (writeAddress i s = none → SameData s t)
    ∧ ∀ ea, writeAddress i s = some ea → writable s ea = true ∧ ∃ b, Stored s t ea b

/-- No instruction but RETI changes the mode. -/
def Obligations.OnlyRetiChangesTheMode : Prop :=
  ∀ (i : Instr) (s t : State), exec i s = .next t → i ≠ .reti → SameMode s t

/-- R30: an instruction writes only the flag pair the mode selects. -/
def Obligations.OtherFlagPairsAreKept : Prop :=
  ∀ (i : Instr) (s t : State), exec i s = .next t →
    (s.mode ≠ .normal → t.normalFlags = s.normalFlags) ∧ (s.mode ≠ .int → t.intFlags = s.intFlags)
    ∧ (s.mode ≠ .nmi → t.nmiFlags = s.nmiFlags)

/-- An instruction does not see the flag pairs the mode does not select: started with other contents in
one of them, it answers the same, with those contents still there. -/
def Obligations.UnusedFlagPairsAreInvisible : Prop :=
  ∀ (i : Instr) (s : State) (f : FlagPair),
    (s.mode ≠ .normal → exec i { s with normalFlags := f }
      = mapNext (fun t => { t with normalFlags := f }) (exec i s))
    ∧ (s.mode ≠ .int → exec i { s with intFlags := f }
      = mapNext (fun t => { t with intFlags := f }) (exec i s))
    ∧ (s.mode ≠ .nmi → exec i { s with nmiFlags := f }
      = mapNext (fun t => { t with nmiFlags := f }) (exec i s))

/-- R29: no instruction but CALL, RET and RETI touches the stack or its pointer. -/
def Obligations.OnlyCallsAndReturnsTouchTheStack : Prop :=
  ∀ (i : Instr) (s t : State), exec i s = .next t →
    (∀ abc, i ≠ .call abc) → i ≠ .ret → i ≠ .reti → SameStack s t

/-- R83: no step writes program space; nor does one change the device's parameters. -/
def Obligations.NoStepWritesProgramSpace : Prop :=
  ∀ s t : State, step s = .next t → t.prog = s.prog ∧ t.cfg = s.cfg

/-- Every step keeps the stores in canonical form and the configuration within the spec's bounds. -/
def Obligations.StepKeepsTheStateWellFormed : Prop :=
  ∀ s t : State, s.wf = true → step s = .next t → t.wf = true

/-- The state after reset is well formed. -/
def Obligations.ResetStateIsWellFormed : Prop := State.reset.wf = true

/-! ### Steps, interrupts and reset -/

/-- A step runs the decoded instruction: with no reset and no acceptable interrupt after the platform's
turn, and the core running, where the bytes at the program counter decode to `i` the step is `exec i`. -/
def Obligations.StepRunsTheDecodedInstruction : Prop :=
  ∀ (s : State) (bs : List Byte) (i : Instr),
    (sample s).lines.reset = false → acceptable (sample s) = none → (sample s).run = .running →
    bytesAt (sample s) (sample s).pc bs → decode bs = .ok i →
    step s = exec i (sample s)

/-- The instruction that `withFetchWord` places is the one the next step runs. The placing is the
model's (log 8). -/
def Obligations.PlacedInstructionRunsNext : Prop :=
  ∀ (s : State) (nbits w : Nat) (i : Instr), decodeTableWord nbits w = some i →
    step (s.withFetchWord nbits w) = exec i (s.withFetchWord nbits w)

/-- R264: a step does a reset, else an acceptable interrupt's entry, else one whole instruction if the
core is running, else nothing; where the fetch of a running core finds no byte, the step stops with the fetch's
fault. The spec marks R264 as derived and as its decision D11. That the platform's turn comes first, is no
change with nothing to come, and else takes the head entry's lines, bytes and control registers and uses the
entry up, is the model's (log 15); so is the stop (log 8). -/
def Obligations.StepOrder : Prop :=
  ∀ s : State, (s.inputs = [] → sample s = s)
    ∧ (∀ i rest, s.inputs = i :: rest →
        sample s = { s with
          lines := i.lines, inputs := rest, data := (sample s).data
          ramBank := i.ramBank.getD s.ramBank, windowSel := i.windowSel.getD s.windowSel
          progBank := i.progBank.getD s.progBank, irqOption := i.irqOption.getD s.irqOption }
        ∧ ∀ k, Memory.get (sample s).data k
            = ((i.writes.reverse.find? (fun c => c.1 == k)).map (fun c => c.2)).getD (Memory.get s.data k))
    ∧ ((sample s).lines.reset = true → step s = .next (resetEvent (sample s)))
    ∧ ((sample s).lines.reset = false →
        (∀ n, acceptable (sample s) = some n → step s = enterInterrupt n (sample s))
        ∧ (acceptable (sample s) = none →
            (∀ i, (sample s).run = .running → fetch (sample s) = .ok i → step s = exec i (sample s))
            ∧ (∀ f, (sample s).run = .running → fetch (sample s) = .error f → step s = .fault f)
            ∧ ((sample s).run ≠ .running → step s = .next (sample s))))

/-- R265: the NMI is accepted outside NMI mode, before all others; in NORMAL mode with interrupts
enabled the waiting interrupt of smallest number is; else none. The NMI before #1 to #4, and the global
disable gating only those, are the spec's own decisions D17 and D12 (logs 17, 18). -/
def Obligations.InterruptAcceptance : Prop :=
  ∀ (s : State) (n : Source), acceptable s = some n ↔
    (n = .nmi ∧ s.lines.requests.nmi = true ∧ s.mode ≠ .nmi)
    ∨ (n ≠ .nmi ∧ s.lines.requests.nmi = false ∧ s.mode = .normal ∧ s.irqOption ∉ s.cfg.irqDisabledBy
        ∧ requestOf s.lines.requests n = true
        ∧ ∀ m, m ≠ .nmi → requestOf s.lines.requests m = true → n.number ≤ m.number)

/-- R270: entry to interrupt #n. What its push does with six levels in use (`Pushed`, `canPush`) is R27's
decision D4, a parameter here (log 10). -/
def Obligations.InterruptEntry : Prop :=
  ∀ (s : State) (n : Source), canPush s = true → (n = .nmi → s.mode ≠ .nmi) →
    Completes (enterInterrupt n s) fun t =>
      Pushed s t s.pc
      ∧ (n = .nmi → t.mode = .nmi ∧ t.nmiRet.toMode = s.mode ∧ t.pc = 0xFFC)
      ∧ (n ≠ .nmi → t.mode = .int ∧ t.nmiRet = s.nmiRet ∧ t.pc.toNat = 0xFF8 - 2 * n.number)
      ∧ t.run = .running
      ∧ t.bus = .irqAck n :: s.bus ∧ t.draws = s.draws ∧ t.lines.reset = s.lines.reset
      ∧ SameFlags s t ∧ SameRegs s t ∧ SameData s t ∧ t.prog = s.prog ∧ t.inputs = s.inputs ∧ t.cfg = s.cfg

/-- What an entry leaves of the requests: the one acknowledged drops where the configuration calls its
source edge triggered, and every other request still waits. What an acknowledge does is the model's
parameter (log 16). -/
def Obligations.AcknowledgeDropsOnlyAnEdgeRequest : Prop :=
  ∀ (s t : State) (n : Source), enterInterrupt n s = .next t → ∀ m,
    requestOf t.lines.requests m
      = if m = n ∧ requestOf s.cfg.edge n = true then false else requestOf s.lines.requests m

/-- R280: in WAIT and STOP only a reset and the entry of an acceptable interrupt can happen; the entry
sets the core running and stacks the address after the WAIT or STOP. The platform's turn before it is the
model's (log 15), and what the push does with six levels in use is R27's decision D4 (log 10). -/
def Obligations.InterruptEndsWaitAndStop : Prop :=
  (∀ s : State, s.run ≠ .running → (sample s).lines.reset = false → acceptable (sample s) = none →
    step s = .next (sample s))
  ∧ ∀ (s : State) (n : Source), s.run ≠ .running → (sample s).lines.reset = false →
    acceptable (sample s) = some n → canPush s = true →
    Completes (step s) fun t => t.run = .running ∧ t.pc = vector n ∧ Pushed s t s.pc ∧ SameRegs s t
      ∧ SameFlags s t

/-- R281: in INT mode, or with the global disable active, the core accepts nothing but the NMI; and WAIT
or STOP in NMI mode is ended by nothing but reset: for any number of steps in which no reset comes, the
core keeps its run state, its mode, its program counter, registers, flags and stack. This is the spec's own
decision D14 (log 22). -/
def Obligations.WaitInNmiModeEndsOnlyByReset : Prop :=
  (∀ (s : State) (n : Source), s.mode = .int ∨ globalEnable s = false → acceptable s = some n → n = .nmi)
  ∧ ∀ (k : Nat) (s : State), s.mode = .nmi → s.run ≠ .running → s.lines.reset = false →
    (∀ i ∈ s.inputs, i.lines.reset = false) →
    ∃ t, Host.Core.run Sys2Proof.core k s = .next t ∧ t.run = s.run ∧ t.mode = .nmi ∧ t.pc = s.pc
      ∧ SameRegs s t ∧ SameFlags s t ∧ SameStack s t

/-- An interrupt entered and left at once by RETI is invisible: the program counter, the mode, the stack
pointer, the flags, the registers and data space are as before. -/
def Obligations.EntryThenRetiRestores : Prop :=
  ∀ (s : State) (n : Source), acceptable s = some n → s.sp.val < 6 →
    ∃ t u, enterInterrupt n s = .next t ∧ exec .reti t = .next u
      ∧ u.pc = s.pc ∧ u.mode = s.mode ∧ u.sp = s.sp
      ∧ (∀ m, 1 ≤ m → m ≤ s.sp.val → u.stk.level m = s.stk.level m)
      ∧ SameFlags s u ∧ SameRegs s u ∧ SameData s u

/-- R310: reset; `sp` and `nmi_ret` are the spec's derivation. -/
def Obligations.ResetState : Prop :=
  (State.reset.pc = 0xFFE ∧ State.reset.mode = .nmi ∧ State.reset.nmiRet = .normal
    ∧ State.reset.sp.val = 0 ∧ State.reset.run = .running)
  ∧ ∀ s : State, (sample s).lines.reset = true → Completes (step s) fun t =>
      t.pc = 0xFFE ∧ t.mode = .nmi ∧ t.nmiRet = .normal ∧ t.sp.val = 0 ∧ t.run = .running
end

