-- ==== Sys2Proof/Laws/Decode.lean ====
section
/-! SUPPORT. The decoder, said once for each length of instruction. -/

namespace Sys2Proof

theorem lengthOf_le_three (op : Byte) : lengthOf op ≤ 3 := by revert op; decide

/-- An opcode byte alone, or an illegal one. -/
theorem decode_short {op : Byte} (rest : List Byte) (h : lengthOf op ≤ 1) :
    decode (op :: rest) = .ok (decodeOp op 0 0) := by
  obtain h | h : lengthOf op = 0 ∨ lengthOf op = 1 := by omega
  · simp [decode, h]
  · simp [decode, h]

/-- A two-byte instruction. -/
theorem decode_two {op : Byte} (b1 : Byte) (rest : List Byte) (h : lengthOf op = 2) :
    decode (op :: b1 :: rest) = .ok (decodeOp op b1 0) := by
  simp only [decode, h]

/-- A three-byte instruction. -/
theorem decode_three {op : Byte} (b1 b2 : Byte) (rest : List Byte) (h : lengthOf op = 3) :
    decode (op :: b1 :: b2 :: rest) = .ok (decodeOp op b1 b2) := by
  simp only [decode, h]

/-- Everything the decoder can answer with an instruction. -/
theorem decode_ok {bs : List Byte} {i : Instr} (h : decode bs = .ok i) :
    ∃ op rest, bs = op :: rest ∧
      ((lengthOf op ≤ 1 ∧ i = decodeOp op 0 0)
      ∨ (∃ b1 tail, lengthOf op = 2 ∧ rest = b1 :: tail ∧ i = decodeOp op b1 0)
      ∨ (∃ b1 b2 tail, lengthOf op = 3 ∧ rest = b1 :: b2 :: tail ∧ i = decodeOp op b1 b2)) := by
  match bs, h with
  | [], h => cases h
  | op :: rest, h =>
    refine ⟨op, rest, rfl, ?_⟩
    have hl := lengthOf_le_three op
    rcases (by omega : lengthOf op ≤ 1 ∨ lengthOf op = 2 ∨ lengthOf op = 3) with h1 | h2 | h3
    · rw [decode_short rest h1] at h; cases h; exact .inl ⟨h1, rfl⟩
    · match rest, h with
      | [], h => simp [decode, h2] at h
      | b1 :: tail, h =>
        rw [decode_two b1 tail h2] at h; cases h; exact .inr (.inl ⟨b1, tail, h2, rfl, rfl⟩)
    · match rest, h with
      | [], h => simp [decode, h3] at h
      | [_], h => simp [decode, h3] at h
      | b1 :: b2 :: tail, h =>
        rw [decode_three b1 b2 tail h3] at h; cases h; exact .inr (.inr ⟨b1, b2, tail, h3, rfl, rfl⟩)

end Sys2Proof
end

