-- ==== Sys2Proof/Laws/Memory.lean ====
section
/-! SUPPORT. The byte stores: read after write, and every operation keeps the canonical form. -/

namespace Sys2Proof.Machine

/-! ### Reading after an update -/

@[simp] theorem Memory.find_insert_same (m : Memory) (k : Nat) (v : Byte) :
    Memory.find (Memory.insert m k v) k = some v := by
  induction m with
  | nil => simp [Memory.insert, Memory.find]
  | cons c m ih =>
    unfold Memory.insert
    split
    · simp [Memory.find]
    · split
      · simp [Memory.find]
      · rename_i h; simp [Memory.find, Ne.symm h, ih]

theorem Memory.find_insert_other (m : Memory) {k j : Nat} (v : Byte) (h : j ≠ k) :
    Memory.find (Memory.insert m k v) j = Memory.find m j := by
  induction m with
  | nil => simp [Memory.insert, Memory.find, Ne.symm h]
  | cons c m ih =>
    unfold Memory.insert
    split
    · simp [Memory.find, Ne.symm h]
    · split
      · rename_i hk; simp [Memory.find, Ne.symm h, ← hk]
      · simp [Memory.find, ih]

@[simp] theorem Memory.find_remove_same (m : Memory) (k : Nat) : Memory.find (Memory.remove m k) k = none := by
  induction m with
  | nil => rfl
  | cons c m ih =>
    unfold Memory.remove
    split
    · exact ih
    · rename_i h; simp [Memory.find, h, ih]

theorem Memory.find_remove_other (m : Memory) {k j : Nat} (h : j ≠ k) :
    Memory.find (Memory.remove m k) j = Memory.find m j := by
  induction m with
  | nil => rfl
  | cons c m ih =>
    unfold Memory.remove
    split
    · rename_i hk; simp [Memory.find, hk, Ne.symm h, ih]
    · simp [Memory.find, ih]

@[simp] theorem Memory.get_put_same (m : Memory) (k : Nat) (v : Byte) : Memory.get (Memory.put m k v) k = v := by
  unfold Memory.put Memory.get
  split
  · rename_i h; simp [h]
  · simp

theorem Memory.get_put_other (m : Memory) {k j : Nat} (v : Byte) (h : j ≠ k) :
    Memory.get (Memory.put m k v) j = Memory.get m j := by
  unfold Memory.put Memory.get
  split
  · rw [Memory.find_remove_other m h]
  · rw [Memory.find_insert_other m v h]

/-- Reading after a write, in one equation. -/
theorem Memory.get_put (m : Memory) (k j : Nat) (v : Byte) :
    Memory.get (Memory.put m k v) j = if j = k then v else Memory.get m j := by
  split
  · rename_i h; rw [h, Memory.get_put_same]
  · rename_i h; exact Memory.get_put_other m v h

/-! ### The canonical form -/

theorem Memory.mem_insert {m : Memory} {k : Nat} {v : Byte} {c : Host.Cell} (h : c ∈ Memory.insert m k v) :
    c = (k, v) ∨ c ∈ m := by
  induction m with
  | nil => simpa [Memory.insert] using h
  | cons d m ih =>
    unfold Memory.insert at h
    split at h
    · simpa using h
    · split at h
      · simp only [List.mem_cons] at h ⊢; tauto
      · simp only [List.mem_cons] at h ⊢
        rcases h with h | h
        · exact Or.inr (Or.inl h)
        · rcases ih h with h | h <;> tauto

theorem Memory.mem_remove {m : Memory} {k : Nat} {c : Host.Cell} (h : c ∈ Memory.remove m k) :
    c ∈ m ∧ c.1 ≠ k := by
  induction m with
  | nil => simp [Memory.remove] at h
  | cons d m ih =>
    unfold Memory.remove at h
    split at h
    · have := ih h; exact ⟨List.mem_cons_of_mem _ this.1, this.2⟩
    · rename_i hk
      rcases List.mem_cons.mp h with h | h
      · subst h; exact ⟨by simp, hk⟩
      · have := ih h; exact ⟨List.mem_cons_of_mem _ this.1, this.2⟩

theorem Memory.rising_cons (c : Host.Cell) (m : Memory) :
    Memory.rising (c :: m) = true ↔ (∀ d ∈ m, c.1 < d.1) ∧ Memory.rising m = true := by
  simp [Memory.rising]

theorem Memory.rising_insert {m : Memory} (k : Nat) (v : Byte) (h : Memory.rising m = true) :
    Memory.rising (Memory.insert m k v) = true := by
  induction m with
  | nil => simp [Memory.insert, Memory.rising]
  | cons c m ih =>
    obtain ⟨hc, hm⟩ := (Memory.rising_cons c m).mp h
    unfold Memory.insert
    split
    · rename_i hk
      refine (Memory.rising_cons _ _).mpr ⟨fun d hd => ?_, h⟩
      rcases List.mem_cons.mp hd with rfl | hd
      · exact hk
      · exact Nat.lt_trans hk (hc d hd)
    · split
      · rename_i hk
        exact (Memory.rising_cons _ _).mpr ⟨fun d hd => by simpa [hk] using hc d hd, hm⟩
      · refine (Memory.rising_cons _ _).mpr ⟨fun d hd => ?_, ih hm⟩
        rcases Memory.mem_insert hd with rfl | hd
        · simp only; omega
        · exact hc d hd

theorem Memory.rising_remove {m : Memory} (k : Nat) (h : Memory.rising m = true) :
    Memory.rising (Memory.remove m k) = true := by
  induction m with
  | nil => rfl
  | cons c m ih =>
    obtain ⟨hc, hm⟩ := (Memory.rising_cons c m).mp h
    unfold Memory.remove
    split
    · exact ih hm
    · exact (Memory.rising_cons _ _).mpr ⟨fun d hd => hc d (Memory.mem_remove hd).1, ih hm⟩

theorem Memory.wf_iff (m : Memory) :
    Memory.wf m = true ↔ Memory.rising m = true ∧ ∀ c ∈ m, c.2 ≠ unwrittenByte := by
  simp [Memory.wf]

/-- A write to the data store keeps the canonical form. -/
theorem Memory.wf_put {m : Memory} (k : Nat) (v : Byte) (h : Memory.wf m = true) :
    Memory.wf (Memory.put m k v) = true := by
  obtain ⟨hr, hv⟩ := (Memory.wf_iff m).mp h
  unfold Memory.put
  split
  · exact (Memory.wf_iff _).mpr ⟨Memory.rising_remove k hr, fun c hc => hv c (Memory.mem_remove hc).1⟩
  · rename_i hne
    refine (Memory.wf_iff _).mpr ⟨Memory.rising_insert k v hr, fun c hc => ?_⟩
    rcases Memory.mem_insert hc with rfl | hc
    · exact hne
    · exact hv c hc

/-- The platform's own writes keep the canonical form. -/
theorem Memory.wf_foldl_put (ws : List Host.Cell) {m : Memory} (h : Memory.wf m = true) :
    Memory.wf (ws.foldl (fun m c => Memory.put m c.1 c.2) m) = true := by
  induction ws generalizing m with
  | nil => exact h
  | cons w ws ih => exact ih (Memory.wf_put w.1 w.2 h)

/-- A byte that is not listed is not found. -/
theorem Memory.find_eq_none {m : Memory} {k : Nat} (h : ∀ c ∈ m, c.1 ≠ k) : Memory.find m k = none := by
  induction m with
  | nil => rfl
  | cons c m ih =>
    simp only [Memory.find, h c (by simp), if_false]
    exact ih fun d hd => h d (List.mem_cons_of_mem _ hd)

theorem Memory.reset_wf : Memory.wf State.reset.data = true := rfl

theorem Memory.reset_rising : Memory.rising State.reset.prog = true := rfl

end Sys2Proof.Machine
end

