-- ==== Sys2Proof/Laws/State.lean ====
section
/-! SUPPORT. What each update of the state leaves: one lemma per field and update. -/

namespace Sys2Proof.Machine


/-! ### A <- b -/

@[simp] theorem State.setA_a (s : State) (b : Byte) : (s.setA b).a = b := rfl
@[simp] theorem State.setA_x (s : State) (b : Byte) : (s.setA b).x = s.x := rfl
@[simp] theorem State.setA_y (s : State) (b : Byte) : (s.setA b).y = s.y := rfl
@[simp] theorem State.setA_v (s : State) (b : Byte) : (s.setA b).v = s.v := rfl
@[simp] theorem State.setA_w (s : State) (b : Byte) : (s.setA b).w = s.w := rfl
@[simp] theorem State.setA_pc (s : State) (b : Byte) : (s.setA b).pc = s.pc := rfl
@[simp] theorem State.setA_sp (s : State) (b : Byte) : (s.setA b).sp = s.sp := rfl
@[simp] theorem State.setA_stk (s : State) (b : Byte) : (s.setA b).stk = s.stk := rfl
@[simp] theorem State.setA_normalFlags (s : State) (b : Byte) : (s.setA b).normalFlags = s.normalFlags := rfl
@[simp] theorem State.setA_intFlags (s : State) (b : Byte) : (s.setA b).intFlags = s.intFlags := rfl
@[simp] theorem State.setA_nmiFlags (s : State) (b : Byte) : (s.setA b).nmiFlags = s.nmiFlags := rfl
@[simp] theorem State.setA_mode (s : State) (b : Byte) : (s.setA b).mode = s.mode := rfl
@[simp] theorem State.setA_nmiRet (s : State) (b : Byte) : (s.setA b).nmiRet = s.nmiRet := rfl
@[simp] theorem State.setA_run (s : State) (b : Byte) : (s.setA b).run = s.run := rfl
@[simp] theorem State.setA_data (s : State) (b : Byte) : (s.setA b).data = s.data := rfl
@[simp] theorem State.setA_prog (s : State) (b : Byte) : (s.setA b).prog = s.prog := rfl
@[simp] theorem State.setA_ramBank (s : State) (b : Byte) : (s.setA b).ramBank = s.ramBank := rfl
@[simp] theorem State.setA_windowSel (s : State) (b : Byte) : (s.setA b).windowSel = s.windowSel := rfl
@[simp] theorem State.setA_progBank (s : State) (b : Byte) : (s.setA b).progBank = s.progBank := rfl
@[simp] theorem State.setA_irqOption (s : State) (b : Byte) : (s.setA b).irqOption = s.irqOption := rfl
@[simp] theorem State.setA_lines (s : State) (b : Byte) : (s.setA b).lines = s.lines := rfl
@[simp] theorem State.setA_inputs (s : State) (b : Byte) : (s.setA b).inputs = s.inputs := rfl
@[simp] theorem State.setA_draws (s : State) (b : Byte) : (s.setA b).draws = s.draws := rfl
@[simp] theorem State.setA_bus (s : State) (b : Byte) : (s.setA b).bus = s.bus := rfl
@[simp] theorem State.setA_cfg (s : State) (b : Byte) : (s.setA b).cfg = s.cfg := rfl

/-! ### pc <- t -/

@[simp] theorem State.setPc_a (s : State) (t : Addr) : (s.setPc t).a = s.a := rfl
@[simp] theorem State.setPc_x (s : State) (t : Addr) : (s.setPc t).x = s.x := rfl
@[simp] theorem State.setPc_y (s : State) (t : Addr) : (s.setPc t).y = s.y := rfl
@[simp] theorem State.setPc_v (s : State) (t : Addr) : (s.setPc t).v = s.v := rfl
@[simp] theorem State.setPc_w (s : State) (t : Addr) : (s.setPc t).w = s.w := rfl
@[simp] theorem State.setPc_pc (s : State) (t : Addr) : (s.setPc t).pc = t := rfl
@[simp] theorem State.setPc_sp (s : State) (t : Addr) : (s.setPc t).sp = s.sp := rfl
@[simp] theorem State.setPc_stk (s : State) (t : Addr) : (s.setPc t).stk = s.stk := rfl
@[simp] theorem State.setPc_normalFlags (s : State) (t : Addr) : (s.setPc t).normalFlags = s.normalFlags := rfl
@[simp] theorem State.setPc_intFlags (s : State) (t : Addr) : (s.setPc t).intFlags = s.intFlags := rfl
@[simp] theorem State.setPc_nmiFlags (s : State) (t : Addr) : (s.setPc t).nmiFlags = s.nmiFlags := rfl
@[simp] theorem State.setPc_mode (s : State) (t : Addr) : (s.setPc t).mode = s.mode := rfl
@[simp] theorem State.setPc_nmiRet (s : State) (t : Addr) : (s.setPc t).nmiRet = s.nmiRet := rfl
@[simp] theorem State.setPc_run (s : State) (t : Addr) : (s.setPc t).run = s.run := rfl
@[simp] theorem State.setPc_data (s : State) (t : Addr) : (s.setPc t).data = s.data := rfl
@[simp] theorem State.setPc_prog (s : State) (t : Addr) : (s.setPc t).prog = s.prog := rfl
@[simp] theorem State.setPc_ramBank (s : State) (t : Addr) : (s.setPc t).ramBank = s.ramBank := rfl
@[simp] theorem State.setPc_windowSel (s : State) (t : Addr) : (s.setPc t).windowSel = s.windowSel := rfl
@[simp] theorem State.setPc_progBank (s : State) (t : Addr) : (s.setPc t).progBank = s.progBank := rfl
@[simp] theorem State.setPc_irqOption (s : State) (t : Addr) : (s.setPc t).irqOption = s.irqOption := rfl
@[simp] theorem State.setPc_lines (s : State) (t : Addr) : (s.setPc t).lines = s.lines := rfl
@[simp] theorem State.setPc_inputs (s : State) (t : Addr) : (s.setPc t).inputs = s.inputs := rfl
@[simp] theorem State.setPc_draws (s : State) (t : Addr) : (s.setPc t).draws = s.draws := rfl
@[simp] theorem State.setPc_bus (s : State) (t : Addr) : (s.setPc t).bus = s.bus := rfl
@[simp] theorem State.setPc_cfg (s : State) (t : Addr) : (s.setPc t).cfg = s.cfg := rfl

/-! ### pc <- pc + len -/

@[simp] theorem State.advance_a (s : State) (n : Nat) : (s.advance n).a = s.a := rfl
@[simp] theorem State.advance_x (s : State) (n : Nat) : (s.advance n).x = s.x := rfl
@[simp] theorem State.advance_y (s : State) (n : Nat) : (s.advance n).y = s.y := rfl
@[simp] theorem State.advance_v (s : State) (n : Nat) : (s.advance n).v = s.v := rfl
@[simp] theorem State.advance_w (s : State) (n : Nat) : (s.advance n).w = s.w := rfl
@[simp] theorem State.advance_pc (s : State) (n : Nat) : (s.advance n).pc = s.pc + BitVec.ofNat 12 n := rfl
@[simp] theorem State.advance_sp (s : State) (n : Nat) : (s.advance n).sp = s.sp := rfl
@[simp] theorem State.advance_stk (s : State) (n : Nat) : (s.advance n).stk = s.stk := rfl
@[simp] theorem State.advance_normalFlags (s : State) (n : Nat) : (s.advance n).normalFlags = s.normalFlags := rfl
@[simp] theorem State.advance_intFlags (s : State) (n : Nat) : (s.advance n).intFlags = s.intFlags := rfl
@[simp] theorem State.advance_nmiFlags (s : State) (n : Nat) : (s.advance n).nmiFlags = s.nmiFlags := rfl
@[simp] theorem State.advance_mode (s : State) (n : Nat) : (s.advance n).mode = s.mode := rfl
@[simp] theorem State.advance_nmiRet (s : State) (n : Nat) : (s.advance n).nmiRet = s.nmiRet := rfl
@[simp] theorem State.advance_run (s : State) (n : Nat) : (s.advance n).run = s.run := rfl
@[simp] theorem State.advance_data (s : State) (n : Nat) : (s.advance n).data = s.data := rfl
@[simp] theorem State.advance_prog (s : State) (n : Nat) : (s.advance n).prog = s.prog := rfl
@[simp] theorem State.advance_ramBank (s : State) (n : Nat) : (s.advance n).ramBank = s.ramBank := rfl
@[simp] theorem State.advance_windowSel (s : State) (n : Nat) : (s.advance n).windowSel = s.windowSel := rfl
@[simp] theorem State.advance_progBank (s : State) (n : Nat) : (s.advance n).progBank = s.progBank := rfl
@[simp] theorem State.advance_irqOption (s : State) (n : Nat) : (s.advance n).irqOption = s.irqOption := rfl
@[simp] theorem State.advance_lines (s : State) (n : Nat) : (s.advance n).lines = s.lines := rfl
@[simp] theorem State.advance_inputs (s : State) (n : Nat) : (s.advance n).inputs = s.inputs := rfl
@[simp] theorem State.advance_draws (s : State) (n : Nat) : (s.advance n).draws = s.draws := rfl
@[simp] theorem State.advance_bus (s : State) (n : Nat) : (s.advance n).bus = s.bus := rfl
@[simp] theorem State.advance_cfg (s : State) (n : Nat) : (s.advance n).cfg = s.cfg := rfl

/-! ### x[i] <- b -/

@[simp] theorem State.setReg_a (s : State) (r : ShortReg) (b : Byte) : (s.setReg r b).a = s.a := by
  cases r <;> rfl
@[simp] theorem State.setReg_x (s : State) (r : ShortReg) (b : Byte) :
    (s.setReg r b).x = if r = .x then b else s.x := by cases r <;> rfl
@[simp] theorem State.setReg_y (s : State) (r : ShortReg) (b : Byte) :
    (s.setReg r b).y = if r = .y then b else s.y := by cases r <;> rfl
@[simp] theorem State.setReg_v (s : State) (r : ShortReg) (b : Byte) :
    (s.setReg r b).v = if r = .v then b else s.v := by cases r <;> rfl
@[simp] theorem State.setReg_w (s : State) (r : ShortReg) (b : Byte) :
    (s.setReg r b).w = if r = .w then b else s.w := by cases r <;> rfl
@[simp] theorem State.setReg_pc (s : State) (r : ShortReg) (b : Byte) : (s.setReg r b).pc = s.pc := by
  cases r <;> rfl
@[simp] theorem State.setReg_sp (s : State) (r : ShortReg) (b : Byte) : (s.setReg r b).sp = s.sp := by
  cases r <;> rfl
@[simp] theorem State.setReg_stk (s : State) (r : ShortReg) (b : Byte) : (s.setReg r b).stk = s.stk := by
  cases r <;> rfl
@[simp] theorem State.setReg_normalFlags (s : State) (r : ShortReg) (b : Byte) : (s.setReg r b).normalFlags = s.normalFlags := by
  cases r <;> rfl
@[simp] theorem State.setReg_intFlags (s : State) (r : ShortReg) (b : Byte) : (s.setReg r b).intFlags = s.intFlags := by
  cases r <;> rfl
@[simp] theorem State.setReg_nmiFlags (s : State) (r : ShortReg) (b : Byte) : (s.setReg r b).nmiFlags = s.nmiFlags := by
  cases r <;> rfl
@[simp] theorem State.setReg_mode (s : State) (r : ShortReg) (b : Byte) : (s.setReg r b).mode = s.mode := by
  cases r <;> rfl
@[simp] theorem State.setReg_nmiRet (s : State) (r : ShortReg) (b : Byte) : (s.setReg r b).nmiRet = s.nmiRet := by
  cases r <;> rfl
@[simp] theorem State.setReg_run (s : State) (r : ShortReg) (b : Byte) : (s.setReg r b).run = s.run := by
  cases r <;> rfl
@[simp] theorem State.setReg_data (s : State) (r : ShortReg) (b : Byte) : (s.setReg r b).data = s.data := by
  cases r <;> rfl
@[simp] theorem State.setReg_prog (s : State) (r : ShortReg) (b : Byte) : (s.setReg r b).prog = s.prog := by
  cases r <;> rfl
@[simp] theorem State.setReg_ramBank (s : State) (r : ShortReg) (b : Byte) : (s.setReg r b).ramBank = s.ramBank := by
  cases r <;> rfl
@[simp] theorem State.setReg_windowSel (s : State) (r : ShortReg) (b : Byte) : (s.setReg r b).windowSel = s.windowSel := by
  cases r <;> rfl
@[simp] theorem State.setReg_progBank (s : State) (r : ShortReg) (b : Byte) : (s.setReg r b).progBank = s.progBank := by
  cases r <;> rfl
@[simp] theorem State.setReg_irqOption (s : State) (r : ShortReg) (b : Byte) : (s.setReg r b).irqOption = s.irqOption := by
  cases r <;> rfl
@[simp] theorem State.setReg_lines (s : State) (r : ShortReg) (b : Byte) : (s.setReg r b).lines = s.lines := by
  cases r <;> rfl
@[simp] theorem State.setReg_inputs (s : State) (r : ShortReg) (b : Byte) : (s.setReg r b).inputs = s.inputs := by
  cases r <;> rfl
@[simp] theorem State.setReg_draws (s : State) (r : ShortReg) (b : Byte) : (s.setReg r b).draws = s.draws := by
  cases r <;> rfl
@[simp] theorem State.setReg_bus (s : State) (r : ShortReg) (b : Byte) : (s.setReg r b).bus = s.bus := by
  cases r <;> rfl
@[simp] theorem State.setReg_cfg (s : State) (r : ShortReg) (b : Byte) : (s.setReg r b).cfg = s.cfg := by
  cases r <;> rfl

/-! ### The flag pair in use -/

@[simp] theorem State.setFlags_a (s : State) (f : FlagPair) : (s.setFlags f).a = s.a := by
  unfold State.setFlags; cases s.mode <;> rfl
@[simp] theorem State.setFlags_x (s : State) (f : FlagPair) : (s.setFlags f).x = s.x := by
  unfold State.setFlags; cases s.mode <;> rfl
@[simp] theorem State.setFlags_y (s : State) (f : FlagPair) : (s.setFlags f).y = s.y := by
  unfold State.setFlags; cases s.mode <;> rfl
@[simp] theorem State.setFlags_v (s : State) (f : FlagPair) : (s.setFlags f).v = s.v := by
  unfold State.setFlags; cases s.mode <;> rfl
@[simp] theorem State.setFlags_w (s : State) (f : FlagPair) : (s.setFlags f).w = s.w := by
  unfold State.setFlags; cases s.mode <;> rfl
@[simp] theorem State.setFlags_pc (s : State) (f : FlagPair) : (s.setFlags f).pc = s.pc := by
  unfold State.setFlags; cases s.mode <;> rfl
@[simp] theorem State.setFlags_sp (s : State) (f : FlagPair) : (s.setFlags f).sp = s.sp := by
  unfold State.setFlags; cases s.mode <;> rfl
@[simp] theorem State.setFlags_stk (s : State) (f : FlagPair) : (s.setFlags f).stk = s.stk := by
  unfold State.setFlags; cases s.mode <;> rfl
@[simp] theorem State.setFlags_normalFlags (s : State) (f : FlagPair) :
    (s.setFlags f).normalFlags = if s.mode = .normal then f else s.normalFlags := by
  unfold State.setFlags; cases s.mode <;> rfl
@[simp] theorem State.setFlags_intFlags (s : State) (f : FlagPair) :
    (s.setFlags f).intFlags = if s.mode = .int then f else s.intFlags := by
  unfold State.setFlags; cases s.mode <;> rfl
@[simp] theorem State.setFlags_nmiFlags (s : State) (f : FlagPair) :
    (s.setFlags f).nmiFlags = if s.mode = .nmi then f else s.nmiFlags := by
  unfold State.setFlags; cases s.mode <;> rfl
@[simp] theorem State.setFlags_mode (s : State) (f : FlagPair) : (s.setFlags f).mode = s.mode := by
  unfold State.setFlags; cases s.mode <;> rfl
@[simp] theorem State.setFlags_nmiRet (s : State) (f : FlagPair) : (s.setFlags f).nmiRet = s.nmiRet := by
  unfold State.setFlags; cases s.mode <;> rfl
@[simp] theorem State.setFlags_run (s : State) (f : FlagPair) : (s.setFlags f).run = s.run := by
  unfold State.setFlags; cases s.mode <;> rfl
@[simp] theorem State.setFlags_data (s : State) (f : FlagPair) : (s.setFlags f).data = s.data := by
  unfold State.setFlags; cases s.mode <;> rfl
@[simp] theorem State.setFlags_prog (s : State) (f : FlagPair) : (s.setFlags f).prog = s.prog := by
  unfold State.setFlags; cases s.mode <;> rfl
@[simp] theorem State.setFlags_ramBank (s : State) (f : FlagPair) : (s.setFlags f).ramBank = s.ramBank := by
  unfold State.setFlags; cases s.mode <;> rfl
@[simp] theorem State.setFlags_windowSel (s : State) (f : FlagPair) : (s.setFlags f).windowSel = s.windowSel := by
  unfold State.setFlags; cases s.mode <;> rfl
@[simp] theorem State.setFlags_progBank (s : State) (f : FlagPair) : (s.setFlags f).progBank = s.progBank := by
  unfold State.setFlags; cases s.mode <;> rfl
@[simp] theorem State.setFlags_irqOption (s : State) (f : FlagPair) : (s.setFlags f).irqOption = s.irqOption := by
  unfold State.setFlags; cases s.mode <;> rfl
@[simp] theorem State.setFlags_lines (s : State) (f : FlagPair) : (s.setFlags f).lines = s.lines := by
  unfold State.setFlags; cases s.mode <;> rfl
@[simp] theorem State.setFlags_inputs (s : State) (f : FlagPair) : (s.setFlags f).inputs = s.inputs := by
  unfold State.setFlags; cases s.mode <;> rfl
@[simp] theorem State.setFlags_draws (s : State) (f : FlagPair) : (s.setFlags f).draws = s.draws := by
  unfold State.setFlags; cases s.mode <;> rfl
@[simp] theorem State.setFlags_bus (s : State) (f : FlagPair) : (s.setFlags f).bus = s.bus := by
  unfold State.setFlags; cases s.mode <;> rfl
@[simp] theorem State.setFlags_cfg (s : State) (f : FlagPair) : (s.setFlags f).cfg = s.cfg := by
  unfold State.setFlags; cases s.mode <;> rfl
@[simp] theorem State.setFlags_flags (s : State) (f : FlagPair) : (s.setFlags f).flags = f := by
  unfold State.setFlags State.flags; cases s.mode <;> rfl

/-! ### Z <- b -/

@[simp] theorem State.setZ_a (s : State) (b : Bool) : (s.setZ b).a = s.a := State.setFlags_a s _
@[simp] theorem State.setZ_x (s : State) (b : Bool) : (s.setZ b).x = s.x := State.setFlags_x s _
@[simp] theorem State.setZ_y (s : State) (b : Bool) : (s.setZ b).y = s.y := State.setFlags_y s _
@[simp] theorem State.setZ_v (s : State) (b : Bool) : (s.setZ b).v = s.v := State.setFlags_v s _
@[simp] theorem State.setZ_w (s : State) (b : Bool) : (s.setZ b).w = s.w := State.setFlags_w s _
@[simp] theorem State.setZ_pc (s : State) (b : Bool) : (s.setZ b).pc = s.pc := State.setFlags_pc s _
@[simp] theorem State.setZ_sp (s : State) (b : Bool) : (s.setZ b).sp = s.sp := State.setFlags_sp s _
@[simp] theorem State.setZ_stk (s : State) (b : Bool) : (s.setZ b).stk = s.stk := State.setFlags_stk s _
@[simp] theorem State.setZ_normalFlags (s : State) (b : Bool) :
    (s.setZ b).normalFlags = if s.mode = .normal then { s.flags with z := b } else s.normalFlags := State.setFlags_normalFlags s _
@[simp] theorem State.setZ_intFlags (s : State) (b : Bool) :
    (s.setZ b).intFlags = if s.mode = .int then { s.flags with z := b } else s.intFlags := State.setFlags_intFlags s _
@[simp] theorem State.setZ_nmiFlags (s : State) (b : Bool) :
    (s.setZ b).nmiFlags = if s.mode = .nmi then { s.flags with z := b } else s.nmiFlags := State.setFlags_nmiFlags s _
@[simp] theorem State.setZ_mode (s : State) (b : Bool) : (s.setZ b).mode = s.mode := State.setFlags_mode s _
@[simp] theorem State.setZ_nmiRet (s : State) (b : Bool) : (s.setZ b).nmiRet = s.nmiRet := State.setFlags_nmiRet s _
@[simp] theorem State.setZ_run (s : State) (b : Bool) : (s.setZ b).run = s.run := State.setFlags_run s _
@[simp] theorem State.setZ_data (s : State) (b : Bool) : (s.setZ b).data = s.data := State.setFlags_data s _
@[simp] theorem State.setZ_prog (s : State) (b : Bool) : (s.setZ b).prog = s.prog := State.setFlags_prog s _
@[simp] theorem State.setZ_ramBank (s : State) (b : Bool) : (s.setZ b).ramBank = s.ramBank := State.setFlags_ramBank s _
@[simp] theorem State.setZ_windowSel (s : State) (b : Bool) : (s.setZ b).windowSel = s.windowSel := State.setFlags_windowSel s _
@[simp] theorem State.setZ_progBank (s : State) (b : Bool) : (s.setZ b).progBank = s.progBank := State.setFlags_progBank s _
@[simp] theorem State.setZ_irqOption (s : State) (b : Bool) : (s.setZ b).irqOption = s.irqOption := State.setFlags_irqOption s _
@[simp] theorem State.setZ_lines (s : State) (b : Bool) : (s.setZ b).lines = s.lines := State.setFlags_lines s _
@[simp] theorem State.setZ_inputs (s : State) (b : Bool) : (s.setZ b).inputs = s.inputs := State.setFlags_inputs s _
@[simp] theorem State.setZ_draws (s : State) (b : Bool) : (s.setZ b).draws = s.draws := State.setFlags_draws s _
@[simp] theorem State.setZ_bus (s : State) (b : Bool) : (s.setZ b).bus = s.bus := State.setFlags_bus s _
@[simp] theorem State.setZ_cfg (s : State) (b : Bool) : (s.setZ b).cfg = s.cfg := State.setFlags_cfg s _

/-! ### C <- b -/

@[simp] theorem State.setC_a (s : State) (b : Bool) : (s.setC b).a = s.a := State.setFlags_a s _
@[simp] theorem State.setC_x (s : State) (b : Bool) : (s.setC b).x = s.x := State.setFlags_x s _
@[simp] theorem State.setC_y (s : State) (b : Bool) : (s.setC b).y = s.y := State.setFlags_y s _
@[simp] theorem State.setC_v (s : State) (b : Bool) : (s.setC b).v = s.v := State.setFlags_v s _
@[simp] theorem State.setC_w (s : State) (b : Bool) : (s.setC b).w = s.w := State.setFlags_w s _
@[simp] theorem State.setC_pc (s : State) (b : Bool) : (s.setC b).pc = s.pc := State.setFlags_pc s _
@[simp] theorem State.setC_sp (s : State) (b : Bool) : (s.setC b).sp = s.sp := State.setFlags_sp s _
@[simp] theorem State.setC_stk (s : State) (b : Bool) : (s.setC b).stk = s.stk := State.setFlags_stk s _
@[simp] theorem State.setC_normalFlags (s : State) (b : Bool) :
    (s.setC b).normalFlags = if s.mode = .normal then { s.flags with c := b } else s.normalFlags := State.setFlags_normalFlags s _
@[simp] theorem State.setC_intFlags (s : State) (b : Bool) :
    (s.setC b).intFlags = if s.mode = .int then { s.flags with c := b } else s.intFlags := State.setFlags_intFlags s _
@[simp] theorem State.setC_nmiFlags (s : State) (b : Bool) :
    (s.setC b).nmiFlags = if s.mode = .nmi then { s.flags with c := b } else s.nmiFlags := State.setFlags_nmiFlags s _
@[simp] theorem State.setC_mode (s : State) (b : Bool) : (s.setC b).mode = s.mode := State.setFlags_mode s _
@[simp] theorem State.setC_nmiRet (s : State) (b : Bool) : (s.setC b).nmiRet = s.nmiRet := State.setFlags_nmiRet s _
@[simp] theorem State.setC_run (s : State) (b : Bool) : (s.setC b).run = s.run := State.setFlags_run s _
@[simp] theorem State.setC_data (s : State) (b : Bool) : (s.setC b).data = s.data := State.setFlags_data s _
@[simp] theorem State.setC_prog (s : State) (b : Bool) : (s.setC b).prog = s.prog := State.setFlags_prog s _
@[simp] theorem State.setC_ramBank (s : State) (b : Bool) : (s.setC b).ramBank = s.ramBank := State.setFlags_ramBank s _
@[simp] theorem State.setC_windowSel (s : State) (b : Bool) : (s.setC b).windowSel = s.windowSel := State.setFlags_windowSel s _
@[simp] theorem State.setC_progBank (s : State) (b : Bool) : (s.setC b).progBank = s.progBank := State.setFlags_progBank s _
@[simp] theorem State.setC_irqOption (s : State) (b : Bool) : (s.setC b).irqOption = s.irqOption := State.setFlags_irqOption s _
@[simp] theorem State.setC_lines (s : State) (b : Bool) : (s.setC b).lines = s.lines := State.setFlags_lines s _
@[simp] theorem State.setC_inputs (s : State) (b : Bool) : (s.setC b).inputs = s.inputs := State.setFlags_inputs s _
@[simp] theorem State.setC_draws (s : State) (b : Bool) : (s.setC b).draws = s.draws := State.setFlags_draws s _
@[simp] theorem State.setC_bus (s : State) (b : Bool) : (s.setC b).bus = s.bus := State.setFlags_bus s _
@[simp] theorem State.setC_cfg (s : State) (b : Bool) : (s.setC b).cfg = s.cfg := State.setFlags_cfg s _
@[simp] theorem State.setZ_flags (s : State) (b : Bool) : (s.setZ b).flags = { s.flags with z := b } :=
  State.setFlags_flags s _
@[simp] theorem State.setC_flags (s : State) (b : Bool) : (s.setC b).flags = { s.flags with c := b } :=
  State.setFlags_flags s _

/-! ### The flag pair in use, read after the other updates -/

@[simp] theorem State.setA_flags (s : State) (b : Byte) : (s.setA b).flags = s.flags := rfl
@[simp] theorem State.setPc_flags (s : State) (t : Addr) : (s.setPc t).flags = s.flags := rfl
@[simp] theorem State.advance_flags (s : State) (n : Nat) : (s.advance n).flags = s.flags := rfl
@[simp] theorem State.setReg_flags (s : State) (r : ShortReg) (b : Byte) : (s.setReg r b).flags = s.flags := by
  cases r <;> rfl

/-! ### Interrupt entry -/

@[simp] theorem acknowledge_a (n : Source) (s : State) : (acknowledge n s).a = s.a := rfl
@[simp] theorem acknowledge_x (n : Source) (s : State) : (acknowledge n s).x = s.x := rfl
@[simp] theorem acknowledge_y (n : Source) (s : State) : (acknowledge n s).y = s.y := rfl
@[simp] theorem acknowledge_v (n : Source) (s : State) : (acknowledge n s).v = s.v := rfl
@[simp] theorem acknowledge_w (n : Source) (s : State) : (acknowledge n s).w = s.w := rfl
@[simp] theorem acknowledge_pc (n : Source) (s : State) : (acknowledge n s).pc = s.pc := rfl
@[simp] theorem acknowledge_sp (n : Source) (s : State) : (acknowledge n s).sp = s.sp := rfl
@[simp] theorem acknowledge_stk (n : Source) (s : State) : (acknowledge n s).stk = s.stk := rfl
@[simp] theorem acknowledge_normalFlags (n : Source) (s : State) : (acknowledge n s).normalFlags = s.normalFlags := rfl
@[simp] theorem acknowledge_intFlags (n : Source) (s : State) : (acknowledge n s).intFlags = s.intFlags := rfl
@[simp] theorem acknowledge_nmiFlags (n : Source) (s : State) : (acknowledge n s).nmiFlags = s.nmiFlags := rfl
@[simp] theorem acknowledge_mode (n : Source) (s : State) : (acknowledge n s).mode = s.mode := rfl
@[simp] theorem acknowledge_nmiRet (n : Source) (s : State) : (acknowledge n s).nmiRet = s.nmiRet := rfl
@[simp] theorem acknowledge_run (n : Source) (s : State) : (acknowledge n s).run = s.run := rfl
@[simp] theorem acknowledge_data (n : Source) (s : State) : (acknowledge n s).data = s.data := rfl
@[simp] theorem acknowledge_prog (n : Source) (s : State) : (acknowledge n s).prog = s.prog := rfl
@[simp] theorem acknowledge_ramBank (n : Source) (s : State) : (acknowledge n s).ramBank = s.ramBank := rfl
@[simp] theorem acknowledge_windowSel (n : Source) (s : State) : (acknowledge n s).windowSel = s.windowSel := rfl
@[simp] theorem acknowledge_progBank (n : Source) (s : State) : (acknowledge n s).progBank = s.progBank := rfl
@[simp] theorem acknowledge_irqOption (n : Source) (s : State) : (acknowledge n s).irqOption = s.irqOption := rfl
@[simp] theorem acknowledge_lines (n : Source) (s : State) :
    (acknowledge n s).lines = if requestOf s.cfg.edge n then { s.lines with requests := dropRequest s.lines.requests n } else s.lines := rfl
@[simp] theorem acknowledge_inputs (n : Source) (s : State) : (acknowledge n s).inputs = s.inputs := rfl
@[simp] theorem acknowledge_draws (n : Source) (s : State) : (acknowledge n s).draws = s.draws := rfl
@[simp] theorem acknowledge_bus (n : Source) (s : State) : (acknowledge n s).bus = .irqAck n :: s.bus := rfl
@[simp] theorem acknowledge_cfg (n : Source) (s : State) : (acknowledge n s).cfg = s.cfg := rfl
@[simp] theorem enterMode_a (n : Source) (s : State) : (enterMode n s).a = s.a := by cases n <;> rfl
@[simp] theorem enterMode_x (n : Source) (s : State) : (enterMode n s).x = s.x := by cases n <;> rfl
@[simp] theorem enterMode_y (n : Source) (s : State) : (enterMode n s).y = s.y := by cases n <;> rfl
@[simp] theorem enterMode_v (n : Source) (s : State) : (enterMode n s).v = s.v := by cases n <;> rfl
@[simp] theorem enterMode_w (n : Source) (s : State) : (enterMode n s).w = s.w := by cases n <;> rfl
@[simp] theorem enterMode_pc (n : Source) (s : State) : (enterMode n s).pc = s.pc := by cases n <;> rfl
@[simp] theorem enterMode_sp (n : Source) (s : State) : (enterMode n s).sp = s.sp := by cases n <;> rfl
@[simp] theorem enterMode_stk (n : Source) (s : State) : (enterMode n s).stk = s.stk := by cases n <;> rfl
@[simp] theorem enterMode_normalFlags (n : Source) (s : State) : (enterMode n s).normalFlags = s.normalFlags := by cases n <;> rfl
@[simp] theorem enterMode_intFlags (n : Source) (s : State) : (enterMode n s).intFlags = s.intFlags := by cases n <;> rfl
@[simp] theorem enterMode_nmiFlags (n : Source) (s : State) : (enterMode n s).nmiFlags = s.nmiFlags := by cases n <;> rfl
@[simp] theorem enterMode_mode (n : Source) (s : State) :
    (enterMode n s).mode = if n = .nmi then .nmi else .int := by cases n <;> rfl
@[simp] theorem enterMode_nmiRet (n : Source) (s : State) :
    (enterMode n s).nmiRet = if n = .nmi then s.mode.saved else s.nmiRet := by cases n <;> rfl
@[simp] theorem enterMode_run (n : Source) (s : State) : (enterMode n s).run = s.run := by cases n <;> rfl
@[simp] theorem enterMode_data (n : Source) (s : State) : (enterMode n s).data = s.data := by cases n <;> rfl
@[simp] theorem enterMode_prog (n : Source) (s : State) : (enterMode n s).prog = s.prog := by cases n <;> rfl
@[simp] theorem enterMode_ramBank (n : Source) (s : State) : (enterMode n s).ramBank = s.ramBank := by cases n <;> rfl
@[simp] theorem enterMode_windowSel (n : Source) (s : State) : (enterMode n s).windowSel = s.windowSel := by cases n <;> rfl
@[simp] theorem enterMode_progBank (n : Source) (s : State) : (enterMode n s).progBank = s.progBank := by cases n <;> rfl
@[simp] theorem enterMode_irqOption (n : Source) (s : State) : (enterMode n s).irqOption = s.irqOption := by cases n <;> rfl
@[simp] theorem enterMode_lines (n : Source) (s : State) : (enterMode n s).lines = s.lines := by cases n <;> rfl
@[simp] theorem enterMode_inputs (n : Source) (s : State) : (enterMode n s).inputs = s.inputs := by cases n <;> rfl
@[simp] theorem enterMode_draws (n : Source) (s : State) : (enterMode n s).draws = s.draws := by cases n <;> rfl
@[simp] theorem enterMode_bus (n : Source) (s : State) : (enterMode n s).bus = s.bus := by cases n <;> rfl
@[simp] theorem enterMode_cfg (n : Source) (s : State) : (enterMode n s).cfg = s.cfg := by cases n <;> rfl

/-! ### Reset as an event -/

@[simp] theorem resetEvent_pc (s : State) : (resetEvent s).pc = 0xFFE := rfl
@[simp] theorem resetEvent_mode (s : State) : (resetEvent s).mode = .nmi := rfl
@[simp] theorem resetEvent_nmiRet (s : State) : (resetEvent s).nmiRet = .normal := rfl
@[simp] theorem resetEvent_sp (s : State) : (resetEvent s).sp = 0 := rfl
@[simp] theorem resetEvent_run (s : State) : (resetEvent s).run = .running := rfl
@[simp] theorem resetEvent_data (s : State) : (resetEvent s).data = s.data := rfl
@[simp] theorem resetEvent_prog (s : State) : (resetEvent s).prog = s.prog := rfl
@[simp] theorem resetEvent_lines (s : State) : (resetEvent s).lines = s.lines := rfl
@[simp] theorem resetEvent_inputs (s : State) : (resetEvent s).inputs = s.inputs := rfl
@[simp] theorem resetEvent_bus (s : State) : (resetEvent s).bus = s.bus := rfl
@[simp] theorem resetEvent_cfg (s : State) : (resetEvent s).cfg = s.cfg := rfl

/-! ### The data-space read and write -/

@[simp] theorem afterRead_a (s : State) (a : Byte) : (afterRead s a).a = s.a := by
  unfold afterRead; cases coreReg a <;> rfl
@[simp] theorem afterRead_x (s : State) (a : Byte) : (afterRead s a).x = s.x := by
  unfold afterRead; cases coreReg a <;> rfl
@[simp] theorem afterRead_y (s : State) (a : Byte) : (afterRead s a).y = s.y := by
  unfold afterRead; cases coreReg a <;> rfl
@[simp] theorem afterRead_v (s : State) (a : Byte) : (afterRead s a).v = s.v := by
  unfold afterRead; cases coreReg a <;> rfl
@[simp] theorem afterRead_w (s : State) (a : Byte) : (afterRead s a).w = s.w := by
  unfold afterRead; cases coreReg a <;> rfl
@[simp] theorem afterRead_pc (s : State) (a : Byte) : (afterRead s a).pc = s.pc := by
  unfold afterRead; cases coreReg a <;> rfl
@[simp] theorem afterRead_sp (s : State) (a : Byte) : (afterRead s a).sp = s.sp := by
  unfold afterRead; cases coreReg a <;> rfl
@[simp] theorem afterRead_stk (s : State) (a : Byte) : (afterRead s a).stk = s.stk := by
  unfold afterRead; cases coreReg a <;> rfl
@[simp] theorem afterRead_normalFlags (s : State) (a : Byte) : (afterRead s a).normalFlags = s.normalFlags := by
  unfold afterRead; cases coreReg a <;> rfl
@[simp] theorem afterRead_intFlags (s : State) (a : Byte) : (afterRead s a).intFlags = s.intFlags := by
  unfold afterRead; cases coreReg a <;> rfl
@[simp] theorem afterRead_nmiFlags (s : State) (a : Byte) : (afterRead s a).nmiFlags = s.nmiFlags := by
  unfold afterRead; cases coreReg a <;> rfl
@[simp] theorem afterRead_mode (s : State) (a : Byte) : (afterRead s a).mode = s.mode := by
  unfold afterRead; cases coreReg a <;> rfl
@[simp] theorem afterRead_nmiRet (s : State) (a : Byte) : (afterRead s a).nmiRet = s.nmiRet := by
  unfold afterRead; cases coreReg a <;> rfl
@[simp] theorem afterRead_run (s : State) (a : Byte) : (afterRead s a).run = s.run := by
  unfold afterRead; cases coreReg a <;> rfl
@[simp] theorem afterRead_data (s : State) (a : Byte) : (afterRead s a).data = s.data := by
  unfold afterRead; cases coreReg a <;> rfl
@[simp] theorem afterRead_prog (s : State) (a : Byte) : (afterRead s a).prog = s.prog := by
  unfold afterRead; cases coreReg a <;> rfl
@[simp] theorem afterRead_ramBank (s : State) (a : Byte) : (afterRead s a).ramBank = s.ramBank := by
  unfold afterRead; cases coreReg a <;> rfl
@[simp] theorem afterRead_windowSel (s : State) (a : Byte) : (afterRead s a).windowSel = s.windowSel := by
  unfold afterRead; cases coreReg a <;> rfl
@[simp] theorem afterRead_progBank (s : State) (a : Byte) : (afterRead s a).progBank = s.progBank := by
  unfold afterRead; cases coreReg a <;> rfl
@[simp] theorem afterRead_irqOption (s : State) (a : Byte) : (afterRead s a).irqOption = s.irqOption := by
  unfold afterRead; cases coreReg a <;> rfl
@[simp] theorem afterRead_lines (s : State) (a : Byte) : (afterRead s a).lines = s.lines := by
  unfold afterRead; cases coreReg a <;> rfl
@[simp] theorem afterRead_inputs (s : State) (a : Byte) : (afterRead s a).inputs = s.inputs := by
  unfold afterRead; cases coreReg a <;> rfl
@[simp] theorem afterRead_draws (s : State) (a : Byte) :
    (afterRead s a).draws = if (coreReg a).isSome then s.draws else s.draws + 1 := by
  unfold afterRead; cases coreReg a <;> rfl
@[simp] theorem afterRead_bus (s : State) (a : Byte) :
    (afterRead s a).bus = if (coreReg a).isSome then s.bus else .read a (platformByte s a) :: s.bus := by
  unfold afterRead; cases coreReg a <;> rfl
@[simp] theorem afterRead_cfg (s : State) (a : Byte) : (afterRead s a).cfg = s.cfg := by
  unfold afterRead; cases coreReg a <;> rfl
@[simp] theorem afterWrite_pc (s : State) (a b : Byte) : (afterWrite s a b).pc = s.pc := by
  unfold afterWrite platformStore; cases coreReg a with
  | none => cases s.kind a <;> rfl
  | some r => cases r with
    | acc => rfl
    | short r => cases r <;> rfl
@[simp] theorem afterWrite_sp (s : State) (a b : Byte) : (afterWrite s a b).sp = s.sp := by
  unfold afterWrite platformStore; cases coreReg a with
  | none => cases s.kind a <;> rfl
  | some r => cases r with
    | acc => rfl
    | short r => cases r <;> rfl
@[simp] theorem afterWrite_stk (s : State) (a b : Byte) : (afterWrite s a b).stk = s.stk := by
  unfold afterWrite platformStore; cases coreReg a with
  | none => cases s.kind a <;> rfl
  | some r => cases r with
    | acc => rfl
    | short r => cases r <;> rfl
@[simp] theorem afterWrite_normalFlags (s : State) (a b : Byte) : (afterWrite s a b).normalFlags = s.normalFlags := by
  unfold afterWrite platformStore; cases coreReg a with
  | none => cases s.kind a <;> rfl
  | some r => cases r with
    | acc => rfl
    | short r => cases r <;> rfl
@[simp] theorem afterWrite_intFlags (s : State) (a b : Byte) : (afterWrite s a b).intFlags = s.intFlags := by
  unfold afterWrite platformStore; cases coreReg a with
  | none => cases s.kind a <;> rfl
  | some r => cases r with
    | acc => rfl
    | short r => cases r <;> rfl
@[simp] theorem afterWrite_nmiFlags (s : State) (a b : Byte) : (afterWrite s a b).nmiFlags = s.nmiFlags := by
  unfold afterWrite platformStore; cases coreReg a with
  | none => cases s.kind a <;> rfl
  | some r => cases r with
    | acc => rfl
    | short r => cases r <;> rfl
@[simp] theorem afterWrite_mode (s : State) (a b : Byte) : (afterWrite s a b).mode = s.mode := by
  unfold afterWrite platformStore; cases coreReg a with
  | none => cases s.kind a <;> rfl
  | some r => cases r with
    | acc => rfl
    | short r => cases r <;> rfl
@[simp] theorem afterWrite_nmiRet (s : State) (a b : Byte) : (afterWrite s a b).nmiRet = s.nmiRet := by
  unfold afterWrite platformStore; cases coreReg a with
  | none => cases s.kind a <;> rfl
  | some r => cases r with
    | acc => rfl
    | short r => cases r <;> rfl
@[simp] theorem afterWrite_run (s : State) (a b : Byte) : (afterWrite s a b).run = s.run := by
  unfold afterWrite platformStore; cases coreReg a with
  | none => cases s.kind a <;> rfl
  | some r => cases r with
    | acc => rfl
    | short r => cases r <;> rfl
@[simp] theorem afterWrite_prog (s : State) (a b : Byte) : (afterWrite s a b).prog = s.prog := by
  unfold afterWrite platformStore; cases coreReg a with
  | none => cases s.kind a <;> rfl
  | some r => cases r with
    | acc => rfl
    | short r => cases r <;> rfl
@[simp] theorem afterWrite_lines (s : State) (a b : Byte) : (afterWrite s a b).lines = s.lines := by
  unfold afterWrite platformStore; cases coreReg a with
  | none => cases s.kind a <;> rfl
  | some r => cases r with
    | acc => rfl
    | short r => cases r <;> rfl
@[simp] theorem afterWrite_inputs (s : State) (a b : Byte) : (afterWrite s a b).inputs = s.inputs := by
  unfold afterWrite platformStore; cases coreReg a with
  | none => cases s.kind a <;> rfl
  | some r => cases r with
    | acc => rfl
    | short r => cases r <;> rfl
@[simp] theorem afterWrite_draws (s : State) (a b : Byte) : (afterWrite s a b).draws = s.draws := by
  unfold afterWrite platformStore; cases coreReg a with
  | none => cases s.kind a <;> rfl
  | some r => cases r with
    | acc => rfl
    | short r => cases r <;> rfl
@[simp] theorem afterWrite_cfg (s : State) (a b : Byte) : (afterWrite s a b).cfg = s.cfg := by
  unfold afterWrite platformStore; cases coreReg a with
  | none => cases s.kind a <;> rfl
  | some r => cases r with
    | acc => rfl
    | short r => cases r <;> rfl

/-! ### The platform's turn -/

@[simp] theorem sample_a (s : State) : (sample s).a = s.a := by unfold sample; split <;> rfl
@[simp] theorem sample_x (s : State) : (sample s).x = s.x := by unfold sample; split <;> rfl
@[simp] theorem sample_y (s : State) : (sample s).y = s.y := by unfold sample; split <;> rfl
@[simp] theorem sample_v (s : State) : (sample s).v = s.v := by unfold sample; split <;> rfl
@[simp] theorem sample_w (s : State) : (sample s).w = s.w := by unfold sample; split <;> rfl
@[simp] theorem sample_pc (s : State) : (sample s).pc = s.pc := by unfold sample; split <;> rfl
@[simp] theorem sample_sp (s : State) : (sample s).sp = s.sp := by unfold sample; split <;> rfl
@[simp] theorem sample_stk (s : State) : (sample s).stk = s.stk := by unfold sample; split <;> rfl
@[simp] theorem sample_normalFlags (s : State) : (sample s).normalFlags = s.normalFlags := by unfold sample; split <;> rfl
@[simp] theorem sample_intFlags (s : State) : (sample s).intFlags = s.intFlags := by unfold sample; split <;> rfl
@[simp] theorem sample_nmiFlags (s : State) : (sample s).nmiFlags = s.nmiFlags := by unfold sample; split <;> rfl
@[simp] theorem sample_mode (s : State) : (sample s).mode = s.mode := by unfold sample; split <;> rfl
@[simp] theorem sample_nmiRet (s : State) : (sample s).nmiRet = s.nmiRet := by unfold sample; split <;> rfl
@[simp] theorem sample_run (s : State) : (sample s).run = s.run := by unfold sample; split <;> rfl
@[simp] theorem sample_prog (s : State) : (sample s).prog = s.prog := by unfold sample; split <;> rfl
@[simp] theorem sample_draws (s : State) : (sample s).draws = s.draws := by unfold sample; split <;> rfl
@[simp] theorem sample_bus (s : State) : (sample s).bus = s.bus := by unfold sample; split <;> rfl
@[simp] theorem sample_cfg (s : State) : (sample s).cfg = s.cfg := by unfold sample; split <;> rfl

end Sys2Proof.Machine
end

