-- ==== Sys2Proof/Laws/Ops.lean ====
section
/-! SUPPORT. Each shared operation, said once: if it answers, then what it leaves. -/

namespace Sys2Proof.Machine

/-! ### Data space -/

/-- A data-space read: the byte and the state after it where the location answers, else the fault. -/
theorem dataRead_cases (addr : Byte) (s : State) :
    (readable s addr = true ∧ dataRead addr s = .ok (dataByte s addr, afterRead s addr))
    ∨ (readable s addr = false ∧ dataRead addr s = .error (.dataNotImplemented addr)) := by
  unfold dataRead; cases h : readable s addr <;> simp

theorem dataRead_ok {addr : Byte} {s : State} (h : readable s addr = true) :
    dataRead addr s = .ok (dataByte s addr, afterRead s addr) := by simp [dataRead, h]

theorem dataWrite_ok {addr : Byte} {s : State} (b : Byte) (h : writable s addr = true) :
    dataWrite addr b s = .ok (afterWrite s addr b) := by simp [dataWrite, h]

/-- A data-space write: the state after it where the location answers, else one of two faults. -/
theorem dataWrite_cases (addr b : Byte) (s : State) :
    (writable s addr = true ∧ dataWrite addr b s = .ok (afterWrite s addr b))
    ∨ (writable s addr = false ∧ s.kind addr = .romWindow ∧ dataWrite addr b s = .error (.romWrite addr))
    ∨ (writable s addr = false ∧ s.kind addr ≠ .romWindow
        ∧ dataWrite addr b s = .error (.dataNotImplemented addr)) := by
  unfold dataWrite; cases h : writable s addr <;> by_cases hk : s.kind addr = .romWindow <;> simp [hk]

@[simp] theorem afterRead_dataPage (s : State) (a : Byte) : dataPage (afterRead s a) = dataPage s := by
  simp [dataPage]

@[simp] theorem afterRead_kind (s : State) (a b : Byte) : (afterRead s a).kind b = s.kind b := by
  simp [State.kind]

@[simp] theorem afterRead_readable (s : State) (a b : Byte) : readable (afterRead s a) b = readable s b := by
  simp [readable]

@[simp] theorem afterRead_writable (s : State) (a b : Byte) : writable (afterRead s a) b = writable s b := by
  simp [writable]

@[simp] theorem afterRead_dataKey (s : State) (a b : Byte) : dataKey (afterRead s a) b = dataKey s b := by
  simp [dataKey]

@[simp] theorem afterRead_flags (s : State) (a : Byte) : (afterRead s a).flags = s.flags := by
  simp [State.flags]

@[simp] theorem afterRead_inStore (s : State) (a b : Byte) : inStore (afterRead s a) b = inStore s b := by
  simp [inStore]

@[simp] theorem afterRead_isControl (s : State) (a b : Byte) (k : DataKind) :
    isControl (afterRead s a) b k = isControl s b k := by simp [isControl]

@[simp] theorem afterWrite_flags (s : State) (a b : Byte) : (afterWrite s a b).flags = s.flags := by
  simp [State.flags]

theorem writable_readable {s : State} {a : Byte} (h : writable s a = true) : readable s a = true := by
  simp only [writable, readable, Bool.or_eq_true, Bool.and_eq_true] at h ⊢
  tauto

/-- What a write leaves, location by location. -/
theorem afterWrite_stored (s : State) (ea b : Byte) : Stored s (afterWrite s ea b) ea b := by
  unfold Stored inStore isControl afterWrite
  cases hc : coreReg ea with
  | some r =>
    unfold coreReg at hc
    split at hc
    · cases hc; subst_vars; simp [State.setCore]
    split at hc
    · cases hc; subst_vars; simp [State.setCore]
    split at hc
    · cases hc; subst_vars; simp [State.setCore]
    split at hc
    · cases hc; subst_vars; simp [State.setCore]
    split at hc
    · cases hc; subst_vars; simp [State.setCore]
    · cases hc
  | none =>
    have hne : ea ≠ 0xFF#8 ∧ ea ≠ 0x80#8 ∧ ea ≠ 0x81#8 ∧ ea ≠ 0x82#8 ∧ ea ≠ 0x83#8 := by
      unfold coreReg at hc; split_ifs at hc; tauto
    obtain ⟨h1, h2, h3, h4, h5⟩ := hne
    unfold platformStore
    cases hk : s.kind ea <;> simp [h1, h2, h3, h4, h5, Memory.get_put]

/-- The calls a read makes. -/
theorem afterRead_called (s : State) (ea : Byte) :
    (afterRead s ea).bus = readCalls s ea ++ s.bus
    ∧ (afterRead s ea).draws = s.draws + (readCalls s ea).length := by
  unfold readCalls dataByte afterRead; cases coreReg ea <;> simp

/-- The calls a write makes. -/
theorem afterWrite_called (s : State) (ea b : Byte) :
    (afterWrite s ea b).bus = writeCalls ea b ++ s.bus := by
  unfold writeCalls afterWrite platformStore
  cases coreReg ea with
  | none => rfl
  | some r => cases r with
    | acc => rfl
    | short r => cases r <;> rfl

/-- In an allowed configuration no address above 3Fh is paged RAM. -/
theorem kindOf_ne_pagedRam {m : List Region} {ea : Byte} (hm : m.all Region.wf = true)
    (h : 0x40 ≤ ea.toNat) : kindOf m ea ≠ .pagedRam := by
  induction m with
  | nil => simp [kindOf]
  | cons r m ih =>
    rw [List.all_cons, Bool.and_eq_true] at hm
    unfold kindOf
    split
    · rename_i hr
      intro hk
      have hw := hm.1
      simp only [Region.wf, hk, decide_eq_true_eq] at hw
      have hle : ea.toNat ≤ r.hi.toNat := BitVec.le_def.mp hr.2
      omega
    · exact ih hm.2

/-- A write to a plain byte changes the byte under its key, and the bus, and nothing else. -/
theorem afterWrite_of_inStore {s : State} {ea : Byte} (b : Byte) (h : inStore s ea = true) :
    afterWrite s ea b
      = { s with data := Memory.put s.data (dataKey s ea) b, bus := .write ea b :: s.bus } := by
  simp only [inStore, Bool.and_eq_true, Bool.or_eq_true, decide_eq_true_eq, Option.isNone_iff_eq_none] at h
  obtain ⟨hc, hk | hk⟩ := h <;> simp [afterWrite, platformStore, hc, hk]

/-- A paged byte stands under its address in its page. -/
theorem dataKey_paged {s : State} {ea : Byte} (h : s.kind ea = .pagedRam) :
    dataKey s ea = ea.toNat + 256 * dataPage s := by simp [dataKey, h]

/-! ### The shapes of instruction -/

/-- An instruction with one read completes where the location answers, else faults. -/
theorem withSource_cases (ea : Byte) (s : State) (k : Byte → State → State) :
    (readable s ea = true ∧ withSource ea s k = .next (k (dataByte s ea) (afterRead s ea)))
    ∨ (readable s ea = false ∧ withSource ea s k = .fault (.dataNotImplemented ea)) := by
  rcases dataRead_cases ea s with ⟨h, e⟩ | ⟨h, e⟩ <;> simp [withSource, h, e]

theorem withSource_next {ea : Byte} {s t : State} {k : Byte → State → State}
    (h : withSource ea s k = .next t) :
    readable s ea = true ∧ t = k (dataByte s ea) (afterRead s ea) := by
  rcases withSource_cases ea s k with ⟨hr, e⟩ | ⟨_, e⟩
  · rw [e] at h; cases h; exact ⟨hr, rfl⟩
  · rw [e] at h; cases h

/-- An instruction with one write completes where the location answers, else faults. -/
theorem withStore_cases (ea b : Byte) (s : State) (k : State → State) :
    (writable s ea = true ∧ withStore ea b s k = .next (k (afterWrite s ea b)))
    ∨ (writable s ea = false ∧ ∃ f, withStore ea b s k = .fault f) := by
  rcases dataWrite_cases ea b s with ⟨h, e⟩ | ⟨h, _, e⟩ | ⟨h, _, e⟩ <;> simp [withStore, h, e]

theorem withStore_next {ea b : Byte} {s t : State} {k : State → State} (h : withStore ea b s k = .next t) :
    writable s ea = true ∧ t = k (afterWrite s ea b) := by
  rcases withStore_cases ea b s k with ⟨hw, e⟩ | ⟨_, f, e⟩
  · rw [e] at h; cases h; exact ⟨hw, rfl⟩
  · rw [e] at h; cases h

/-- A read-modify-write instruction completes where the location answers the write, else faults. -/
theorem withUpdate_cases (ea : Byte) (s : State) (f : Byte → Byte) (k : Byte → State → State) :
    (writable s ea = true ∧ withUpdate ea s f k
        = .next (k (f (dataByte s ea)) (afterWrite (afterRead s ea) ea (f (dataByte s ea)))))
    ∨ (writable s ea = false ∧ ∃ e, withUpdate ea s f k = .fault e) := by
  unfold withUpdate
  rcases dataRead_cases ea s with ⟨_, e⟩ | ⟨h, e⟩
  · rcases withStore_cases ea (f (dataByte s ea)) (afterRead s ea) (k (f (dataByte s ea)))
      with ⟨h, e'⟩ | ⟨h, e'⟩
    · rw [afterRead_writable] at h; simp [e, e', h]
    · rw [afterRead_writable] at h; simp [e, e', h]
  · have : writable s ea = false := by
      cases hw : writable s ea
      · rfl
      · rw [writable_readable hw] at h; cases h
    simp [e, this]

theorem withUpdate_next {ea : Byte} {s t : State} {f : Byte → Byte} {k : Byte → State → State}
    (h : withUpdate ea s f k = .next t) :
    writable s ea = true
      ∧ t = k (f (dataByte s ea)) (afterWrite (afterRead s ea) ea (f (dataByte s ea))) := by
  rcases withUpdate_cases ea s f k with ⟨hw, e⟩ | ⟨_, f, e⟩
  · rw [e] at h; cases h; exact ⟨hw, rfl⟩
  · rw [e] at h; cases h

/-! ### The stack -/

/-- The cases of a push. -/
theorem push_cases (t : Addr) (s : State) :
    (∃ h : s.sp.val < 6, push t s =
        .ok { s with sp := ⟨s.sp.val + 1, by omega⟩, stk := s.stk.setLevel (s.sp.val + 1) t })
    ∨ (s.sp.val = 6 ∧ s.cfg.stackOverflow = .overwrite
        ∧ push t s = .ok { s with stk := s.stk.setLevel 6 t })
    ∨ (s.sp.val = 6 ∧ s.cfg.stackOverflow = .keep ∧ push t s = .ok s)
    ∨ (s.sp.val = 6 ∧ s.cfg.stackOverflow = .stop ∧ push t s = .error (.stackOverflow s.pc)) := by
  unfold push
  by_cases h : s.sp.val < 6
  · exact .inl ⟨h, by rw [dif_pos h]⟩
  · have h6 : s.sp.val = 6 := by omega
    rw [dif_neg h]
    refine .inr ?_
    cases hc : s.cfg.stackOverflow
    · exact .inl ⟨h6, rfl, rfl⟩
    · exact .inr (.inl ⟨h6, rfl, rfl⟩)
    · exact .inr (.inr ⟨h6, rfl, rfl⟩)

/-- A push that answers changes the stack and its pointer only. -/
theorem push_ok {t : Addr} {s s' : State} (h : push t s = .ok s') :
    s' = { s with sp := s'.sp, stk := s'.stk } := by
  rcases push_cases t s with ⟨_, e⟩ | ⟨_, _, e⟩ | ⟨_, _, e⟩ | ⟨_, _, e⟩ <;>
    rw [e] at h <;> cases h <;> rfl

/-- The cases of a pop. -/
theorem pop_cases (s : State) :
    (s.sp.val = 0 ∧ pop s = none)
    ∨ (0 < s.sp.val ∧ pop s
        = some (s.stk.level s.sp.val, { s with sp := ⟨s.sp.val - 1, by omega⟩ })) := by
  unfold pop
  by_cases h : s.sp.val = 0
  · exact .inl ⟨h, by simp [h]⟩
  · exact .inr ⟨by omega, by simp [h]⟩

/-- A return's transfer changes the program counter and the stack pointer only. -/
theorem popPc_eq (s : State) : popPc s = { s with pc := (popPc s).pc, sp := (popPc s).sp } := by
  unfold popPc
  rcases pop_cases s with ⟨_, e⟩ | ⟨_, e⟩ <;> rw [e] <;> rfl

@[simp] theorem Stack.level_setLevel_same (k : Stack) (n : Nat) (t : Addr) (h : 1 ≤ n ∧ n ≤ 6) :
    (k.setLevel n t).level n = t := by
  obtain ⟨h1, h6⟩ := h; interval_cases n <;> rfl

theorem Stack.level_setLevel_other (k : Stack) {n m : Nat} (t : Addr) (h : m ≠ n) :
    (k.setLevel n t).level m = k.level m := by
  unfold Stack.setLevel
  split <;> (unfold Stack.level; split <;> simp_all)

/-! ### Interrupts and the boundary -/

/-- An entry pushes and then switches, or it faults where the push does. -/
theorem enterInterrupt_cases (n : Source) (s : State) :
    (∃ s', push s.pc s = .ok s' ∧ enterInterrupt n s
        = .next (acknowledge n { enterMode n s' with pc := vector n, run := .running }))
    ∨ (∃ f, push s.pc s = .error f ∧ enterInterrupt n s = .fault f) := by
  unfold enterInterrupt
  cases h : push s.pc s <;> simp

/-- What an entry that answers leaves. -/
theorem enterInterrupt_next {n : Source} {s t : State} (h : enterInterrupt n s = .next t) :
    ∃ s', push s.pc s = .ok s'
      ∧ t = acknowledge n { enterMode n s' with pc := vector n, run := .running } := by
  rcases enterInterrupt_cases n s with ⟨s', hp, e⟩ | ⟨f, _, e⟩
  · rw [e] at h; cases h; exact ⟨s', hp, rfl⟩
  · rw [e] at h; cases h

/-- The platform's turn changes the lines, the inputs to come, the data store and the control registers
only. -/
theorem sample_eq (s : State) :
    sample s = { s with
      lines := (sample s).lines, inputs := (sample s).inputs, data := (sample s).data
      ramBank := (sample s).ramBank, windowSel := (sample s).windowSel
      progBank := (sample s).progBank, irqOption := (sample s).irqOption } := by
  unfold sample; split <;> rfl

/-- With nothing to come, the platform's turn changes nothing. -/
theorem sample_nil {s : State} (h : s.inputs = []) : sample s = s := by
  unfold sample; rw [h]

/-- The platform's turn with an entry to come: the entry is used up, its lines are the lines, its bytes
are written in order and the control registers it names take its values. -/
theorem sample_cons {s : State} {i : Inputs} {rest : List Inputs} (h : s.inputs = i :: rest) :
    sample s = { s with
      lines := i.lines
      inputs := rest
      data := i.writes.foldl (fun m c => Memory.put m c.1 c.2) s.data
      ramBank := i.ramBank.getD s.ramBank
      windowSel := i.windowSel.getD s.windowSel
      progBank := i.progBank.getD s.progBank
      irqOption := i.irqOption.getD s.irqOption } := by
  unfold sample; rw [h]

theorem sample_data_wf {s : State} (h : Memory.wf s.data = true) : Memory.wf (sample s).data = true := by
  unfold sample
  split
  · exact h
  · exact Memory.wf_foldl_put _ h

/-- The four outcomes of a step. -/
theorem step_cases (s : State) :
    (boundaryAction (sample s) = .reset ∧ step s = .next (resetEvent (sample s)))
    ∨ (∃ n, boundaryAction (sample s) = .interrupt n ∧ step s = enterInterrupt n (sample s))
    ∨ (∃ i, boundaryAction (sample s) = .execute ∧ fetch (sample s) = .ok i ∧ step s = exec i (sample s))
    ∨ (∃ f, boundaryAction (sample s) = .execute ∧ fetch (sample s) = .error f ∧ step s = .fault f)
    ∨ (boundaryAction (sample s) = .idle ∧ step s = .next (sample s)) := by
  unfold step
  cases h : boundaryAction (sample s) with
  | reset => simp [h]
  | interrupt n => simp [h]
  | idle => simp [h]
  | execute => cases hf : fetch (sample s) <;> simp [h, hf]

end Sys2Proof.Machine
end

