-- ==== Sys2Proof/Laws/PerInstr.lean ====
section
/-! SUPPORT. Statements about every instruction, one lemma per constructor. -/

namespace Sys2Proof.Laws.EncodedLength

/-- The encoder writes as many bytes as the decoder takes for the opcode byte it writes first
(30_encoding R100): one at least, and exactly one for an illegal opcode, which has no length. -/
def Statement (i : Instr) : Prop :=
  i.wellFormed = true →
    ∃ op rest, encode i = op :: rest ∧ (encode i).length = max 1 (lengthOf op)

theorem jrnz (e : BitVec 5) : Statement (.jrnz e) :=
  fun _ => ⟨_, _, rfl, (by decide : ∀ e : BitVec 5, 1 = max 1 (lengthOf (encodePcr e 0))) e⟩

theorem jrnc (e : BitVec 5) : Statement (.jrnc e) :=
  fun _ => ⟨_, _, rfl, (by decide : ∀ e : BitVec 5, 1 = max 1 (lengthOf (encodePcr e 1))) e⟩

theorem jrz (e : BitVec 5) : Statement (.jrz e) :=
  fun _ => ⟨_, _, rfl, (by decide : ∀ e : BitVec 5, 1 = max 1 (lengthOf (encodePcr e 2))) e⟩

theorem jrc (e : BitVec 5) : Statement (.jrc e) :=
  fun _ => ⟨_, _, rfl, (by decide : ∀ e : BitVec 5, 1 = max 1 (lengthOf (encodePcr e 3))) e⟩

theorem call (abc : Addr) : Statement (.call abc) :=
  fun _ => ⟨_, _, rfl, (by decide : ∀ c : BitVec 4, 2 = max 1 (lengthOf (c ++ 0#1 ++ 0b001#3))) (abc.extractLsb' 0 4)⟩

theorem jp (abc : Addr) : Statement (.jp abc) :=
  fun _ => ⟨_, _, rfl, (by decide : ∀ c : BitVec 4, 2 = max 1 (lengthOf (c ++ 1#1 ++ 0b001#3))) (abc.extractLsb' 0 4)⟩

theorem jrr (b : Fin 8) (rr : Byte) (ee : Byte) : Statement (.jrr b rr ee) :=
  fun _ => ⟨_, _, rfl, (by decide : ∀ b : Fin 8, 3 = max 1 (lengthOf (bitField b ++ 0b00011#5))) b⟩

theorem jrs (b : Fin 8) (rr : Byte) (ee : Byte) : Statement (.jrs b rr ee) :=
  fun _ => ⟨_, _, rfl, (by decide : ∀ b : Fin 8, 3 = max 1 (lengthOf (bitField b ++ 0b10011#5))) b⟩

theorem resBit (b : Fin 8) (rr : Byte) : Statement (.resBit b rr) :=
  fun _ => ⟨_, _, rfl, (by decide : ∀ b : Fin 8, 2 = max 1 (lengthOf (bitField b ++ 0b01011#5))) b⟩

theorem setBit (b : Fin 8) (rr : Byte) : Statement (.setBit b rr) :=
  fun _ => ⟨_, _, rfl, (by decide : ∀ b : Fin 8, 2 = max 1 (lengthOf (bitField b ++ 0b11011#5))) b⟩

theorem incReg (r : ShortReg) : Statement (.incReg r) := by
  intro _; cases r <;> exact ⟨_, _, rfl, by decide⟩

theorem ldAReg (r : ShortReg) : Statement (.ldAReg r) := by
  intro _; cases r <;> exact ⟨_, _, rfl, by decide⟩

theorem decReg (r : ShortReg) : Statement (.decReg r) := by
  intro _; cases r <;> exact ⟨_, _, rfl, by decide⟩

theorem ldRegA (r : ShortReg) : Statement (.ldRegA r) := by
  intro _; cases r <;> exact ⟨_, _, rfl, by decide⟩

theorem ldAInd (p : Pointer) : Statement (.ldAInd p) := by
  intro _; cases p <;> exact ⟨_, _, rfl, by decide⟩

theorem cpInd (p : Pointer) : Statement (.cpInd p) := by
  intro _; cases p <;> exact ⟨_, _, rfl, by decide⟩

theorem addInd (p : Pointer) : Statement (.addInd p) := by
  intro _; cases p <;> exact ⟨_, _, rfl, by decide⟩

theorem incInd (p : Pointer) : Statement (.incInd p) := by
  intro _; cases p <;> exact ⟨_, _, rfl, by decide⟩

theorem ldIndA (p : Pointer) : Statement (.ldIndA p) := by
  intro _; cases p <;> exact ⟨_, _, rfl, by decide⟩

theorem andInd (p : Pointer) : Statement (.andInd p) := by
  intro _; cases p <;> exact ⟨_, _, rfl, by decide⟩

theorem subInd (p : Pointer) : Statement (.subInd p) := by
  intro _; cases p <;> exact ⟨_, _, rfl, by decide⟩

theorem decInd (p : Pointer) : Statement (.decInd p) := by
  intro _; cases p <;> exact ⟨_, _, rfl, by decide⟩

theorem ldiA (nn : Byte) : Statement (.ldiA nn) :=
  fun _ => ⟨_, _, rfl, rfl⟩

theorem cpi (nn : Byte) : Statement (.cpi nn) :=
  fun _ => ⟨_, _, rfl, rfl⟩

theorem addi (nn : Byte) : Statement (.addi nn) :=
  fun _ => ⟨_, _, rfl, rfl⟩

theorem andi (nn : Byte) : Statement (.andi nn) :=
  fun _ => ⟨_, _, rfl, rfl⟩

theorem subi (nn : Byte) : Statement (.subi nn) :=
  fun _ => ⟨_, _, rfl, rfl⟩

theorem ldADir (rr : Byte) : Statement (.ldADir rr) :=
  fun _ => ⟨_, _, rfl, rfl⟩

theorem cpDir (rr : Byte) : Statement (.cpDir rr) :=
  fun _ => ⟨_, _, rfl, rfl⟩

theorem addDir (rr : Byte) : Statement (.addDir rr) :=
  fun _ => ⟨_, _, rfl, rfl⟩

theorem incDir (rr : Byte) : Statement (.incDir rr) :=
  fun _ => ⟨_, _, rfl, rfl⟩

theorem ldDirA (rr : Byte) : Statement (.ldDirA rr) :=
  fun _ => ⟨_, _, rfl, rfl⟩

theorem andDir (rr : Byte) : Statement (.andDir rr) :=
  fun _ => ⟨_, _, rfl, rfl⟩

theorem subDir (rr : Byte) : Statement (.subDir rr) :=
  fun _ => ⟨_, _, rfl, rfl⟩

theorem decDir (rr : Byte) : Statement (.decDir rr) :=
  fun _ => ⟨_, _, rfl, rfl⟩

theorem ldiDir (rr : Byte) (nn : Byte) : Statement (.ldiDir rr nn) :=
  fun _ => ⟨_, _, rfl, rfl⟩

theorem com : Statement .com :=
  fun _ => ⟨_, _, rfl, rfl⟩

theorem reti : Statement .reti :=
  fun _ => ⟨_, _, rfl, rfl⟩

theorem stop : Statement .stop :=
  fun _ => ⟨_, _, rfl, rfl⟩

theorem rlc : Statement .rlc :=
  fun _ => ⟨_, _, rfl, rfl⟩

theorem ret : Statement .ret :=
  fun _ => ⟨_, _, rfl, rfl⟩

theorem wait : Statement .wait :=
  fun _ => ⟨_, _, rfl, rfl⟩

theorem illegal (op : Byte) : Statement (.illegal op) := by
  intro h
  exact ⟨op, [], rfl, (by decide : ∀ o : Byte, Instr.wellFormed (.illegal o) = true → 1 = max 1 (lengthOf o)) op h⟩

theorem nop : Statement .nop :=
  fun _ => ⟨_, _, rfl, rfl⟩

theorem slaA : Statement .slaA :=
  fun _ => ⟨_, _, rfl, rfl⟩

theorem clrA : Statement .clrA :=
  fun _ => ⟨_, _, rfl, rfl⟩

theorem clrDir (rr : Byte) : Statement (.clrDir rr) :=
  fun _ => ⟨_, _, rfl, rfl⟩

theorem incA : Statement .incA :=
  fun _ => ⟨_, _, rfl, rfl⟩

theorem decA : Statement .decA :=
  fun _ => ⟨_, _, rfl, rfl⟩

end Sys2Proof.Laws.EncodedLength
end

