-- ==== Sys2Proof/Tests/Slice0.lean ====
section
/-! SUPPORT. Tests. Expected values are those of spec/95_test_vectors.md (the vector's name stands beside
each test) or of the worked example in the rule named. -/

namespace Sys2Proof.Tests

open Sys2Proof Sys2Proof.Machine

/-! ### Helpers -/

/-- NORMAL mode at `pc`, everything else as after reset: the test platform of section 0. -/
def at_ (pc : Addr) : State := { State.reset with mode := .normal, pc := pc }

/-- NORMAL mode at `pc` with the flags `z`, `c`. -/
def flagged (pc : Addr) (z c : Bool) : State := { at_ pc with normalFlags := ⟨z, c⟩ }

/-- `s` with one data byte. -/
def withByte (s : State) (addr : Nat) (b : Byte) : State := { s with data := [(addr, b)] }

/-- One step with `bytes` at the program counter. -/
def after (s : State) (bytes : List Byte) : Option State :=
  match step (placeInstruction s bytes) with
  | .next t => some t
  | .fault _ => none
  | .refused _ => none

/-- One step with `bytes` at the program counter: the fault, if it ends in one. -/
def faultOf (s : State) (bytes : List Byte) : Option Fault :=
  match step (placeInstruction s bytes) with
  | .fault f => some f
  | .next _ => none
  | .refused _ => none

/-- One step of `s` as it is. -/
def next (s : State) : Option State :=
  match step s with
  | .next t => some t
  | .fault _ => none
  | .refused _ => none

/-- A, the pair in use, and the program counter. -/
def acc (o : Option State) : Option (Byte × FlagPair × Addr) := o.map fun t => (t.a, t.flags, t.pc)

/-- The data byte at `addr`, the pair in use, and the program counter. -/
def byteAt (addr : Byte) (o : Option State) : Option (Byte × FlagPair × Addr) :=
  o.map fun t => (dataByte t addr, t.flags, t.pc)

/-- The program counter and the pair in use. -/
def there (o : Option State) : Option (Addr × FlagPair) := o.map fun t => (t.pc, t.flags)

/-- A device with the data map of Figure 2, two window blocks, nine program pages, and the value 00h of the
option register disabling interrupts. -/
def figure2 : State :=
  { at_ 0x900 with
    prog := [(0x880, 0x5A), (0x8BF, 0xA5), (0x87FF, 0x77)]
    cfg := { Config.testPlatform with
      dataMap := Config.figure2Map, windowBlocks := [0x22, 0x23],
      progPages := [0, 1, 2, 3, 4, 5, 6, 7, 8], irqDisabledBy := [0x00] } }

/-- A device whose data RAM banking register, at CAh, puts at 00h to 3Fh a page of RAM for 00h, another for
02h, and for 01h a page with a device register at 10h and nothing else. -/
def paged : State :=
  { at_ 0x900 with cfg := { Config.testPlatform with
      dataMap := [⟨0x00, 0x3F, .pagedRam⟩, ⟨0xCA, 0xCA, .ramBankReg⟩], ramPages := [0, 1, 2],
      pageMaps := [[⟨0x00, 0x3F, .pagedRam⟩], [⟨0x10, 0x10, .device⟩]] } }

/-! ### Well-formedness: an ill-formed term for each check, and its well-formed neighbour -/

theorem test_wf_jrz : (Instr.jrz 0).wellFormed = false ∧ (Instr.jrz 1).wellFormed = true := by decide
theorem test_wf_addDir : (Instr.addDir 0xFF).wellFormed = false ∧ (Instr.addDir 0xFE).wellFormed = true := by decide
theorem test_wf_subDir : (Instr.subDir 0xFF).wellFormed = false ∧ (Instr.subDir 0xFE).wellFormed = true := by decide
theorem test_wf_incDir : (Instr.incDir 0xFF).wellFormed = false ∧ (Instr.incDir 0xFE).wellFormed = true := by decide
theorem test_wf_decDir : (Instr.decDir 0xFF).wellFormed = false ∧ (Instr.decDir 0xFE).wellFormed = true := by decide
theorem test_wf_ldiDir : (Instr.ldiDir 7 0).wellFormed = false ∧ (Instr.ldiDir 7 1).wellFormed = true := by decide
theorem test_wf_illegal : (Instr.illegal 0x04).wellFormed = false ∧ (Instr.illegal 0x8D).wellFormed = true := by decide

/-! ### Decoding: words written out from 30_encoding -/

/-- R108: `eeeee cc0`. -/
theorem test_decode_pcr :
    decode [0b11010000] = .ok (.jrnz 0b11010) ∧ decode [0b11010010] = .ok (.jrnc 0b11010)
    ∧ decode [0b00111100] = .ok (.jrz 0b00111) ∧ decode [0b00010110] = .ok (.jrc 0b00010)
    ∧ decode [0b00000100] = .ok .nop := by decide

/-- R109, R116: `cccc t001`, `aaaabbbb`. -/
theorem test_decode_ext :
    decode [0b11000001, 0b10001101] = .ok (.call 0x8DC) ∧ decode [0b10101001, 0b00111111] = .ok (.jp 0x3FA) := by
  decide

/-- R112, R113: `bbb s 0011`, rr, ee, the bit number reversed. -/
theorem test_decode_bt :
    decode [0b00100011, 0x70, 0xEA] = .ok (.jrr 4 0x70 0xEA)
    ∧ decode [0b11010011, 0x12, 0x05] = .ok (.jrs 3 0x12 0x05) := by decide

/-- R111, R113: `bbb s 1011`, rr. -/
theorem test_decode_bd :
    decode [0b10001011, 0x23] = .ok (.resBit 1 0x23) ∧ decode [0b00111011, 0xFF] = .ok (.setBit 4 0xFF) := by
  decide

/-- R103: `rr f1 d101`. -/
theorem test_decode_sd :
    decode [0b00010101] = .ok (.incReg .x) ∧ decode [0b01110101] = .ok (.ldAReg .y)
    ∧ decode [0b10011101] = .ok (.decReg .v) ∧ decode [0b11111101] = .ok (.ldRegA .w) := by decide

/-- R104: `ooo0 y111`. -/
theorem test_decode_ind :
    decode [0b00000111] = .ok (.ldAInd .x) ∧ decode [0b00101111] = .ok (.cpInd .y)
    ∧ decode [0b01000111] = .ok (.addInd .x) ∧ decode [0b01101111] = .ok (.incInd .y)
    ∧ decode [0b10000111] = .ok (.ldIndA .x) ∧ decode [0b10101111] = .ok (.andInd .y)
    ∧ decode [0b11000111] = .ok (.subInd .x) ∧ decode [0b11101111] = .ok (.decInd .y) := by decide

/-- R105: `ooo1 1111`, rr; R129, R130, R132 with rr = FFh. -/
theorem test_decode_dir :
    decode [0b00011111, 0x34] = .ok (.ldADir 0x34) ∧ decode [0b00111111, 0x34] = .ok (.cpDir 0x34)
    ∧ decode [0b01011111, 0x22] = .ok (.addDir 0x22) ∧ decode [0b01111111, 0x90] = .ok (.incDir 0x90)
    ∧ decode [0b10011111, 0xC4] = .ok (.ldDirA 0xC4) ∧ decode [0b10111111, 0x54] = .ok (.andDir 0x54)
    ∧ decode [0b11011111, 0x11] = .ok (.subDir 0x11) ∧ decode [0b11111111, 0x90] = .ok (.decDir 0x90)
    ∧ decode [0b01011111, 0xFF] = .ok .slaA ∧ decode [0b11011111, 0xFF] = .ok .clrA
    ∧ decode [0b01111111, 0xFF] = .ok .incA ∧ decode [0b11111111, 0xFF] = .ok .decA := by decide

/-- R106, R107: `ooo1 0111`, nn; `0000 1101`, rr, nn; R131 with nn = 00h. -/
theorem test_decode_imm :
    decode [0b00010111, 0x99] = .ok (.ldiA 0x99) ∧ decode [0b00110111, 0x1C] = .ok (.cpi 0x1C)
    ∧ decode [0b01010111, 0x22] = .ok (.addi 0x22) ∧ decode [0b10110111, 0x33] = .ok (.andi 0x33)
    ∧ decode [0b11010111, 0x25] = .ok (.subi 0x25)
    ∧ decode [0b00001101, 0x34, 0xDF] = .ok (.ldiDir 0x34 0xDF)
    ∧ decode [0b00001101, 0x22, 0x00] = .ok (.clrDir 0x22) := by decide

/-- R102: `ooo0 1101`; R118: an illegal byte. -/
theorem test_decode_inh :
    decode [0b00101101] = .ok .com ∧ decode [0b01001101] = .ok .reti ∧ decode [0b01101101] = .ok .stop
    ∧ decode [0b10101101] = .ok .rlc ∧ decode [0b11001101] = .ok .ret ∧ decode [0b11101101] = .ok .wait
    ∧ decode [0b10001101] = .ok (.illegal 0x8D) := by decide

/-- R100: too few bytes are rejected by name, too many are left alone. -/
theorem test_decode_lengths :
    decode [] = .error .noBytes ∧ decode [0x0D, 0x34] = .error (.truncated 0x0D)
    ∧ decode [0x5F] = .error (.truncated 0x5F) ∧ decode [0x04, 0x05] = .ok .nop := by decide

/-- The table's numbering: the first byte in bits 7 to 0. -/
theorem test_table_word :
    decodeTableWord 8 0x2D = some .com ∧ decodeTableWord 16 0x5CD9 = some (.jp 0x5CD)
    ∧ decodeTableWord 24 0xEA7023 = some (.jrr 4 0x70 0xEA) ∧ decodeTableWord 8 0x1F = some (.ldADir 0) := by
  decide

/-! ### Load and store -/

/-- L1 -/
theorem test_ldAReg : acc (after { flagged 0x100 false true with x := 0, a := 9 } [0x35])
    = some (0x00, ⟨true, true⟩, 0x101) := by decide
/-- L2 -/
theorem test_ldRegA : (after { flagged 0x100 true false with a := 0x7E } [0x7D]).map (fun t => (t.y, t.flags, t.pc))
    = some (0x7E, ⟨false, false⟩, 0x101) := by decide
/-- L4 -/
theorem test_ldAInd : acc (after (withByte { flagged 0x100 true true with x := 0x84 } 0x84 0x12) [0x07])
    = some (0x12, ⟨false, true⟩, 0x101) := by decide
/-- L5: the pointer addresses A itself. -/
theorem test_ldAInd_acc : acc (after { flagged 0x100 false false with y := 0xFF } [0x0F])
    = some (0x00, ⟨true, false⟩, 0x101) := by decide
/-- L6: the pointer register is the destination. -/
theorem test_ldIndA_pointer : (after { flagged 0x100 true false with x := 0x80, a := 0x33 } [0x87]).map
    (fun t => (t.x, t.flags, t.pc)) = some (0x33, ⟨false, false⟩, 0x101) := by decide
/-- L7: the store stays in canonical form. -/
theorem test_ldIndA_zero : (after (withByte { flagged 0x100 false true with y := 0x90 } 0x90 0x44) [0x8F]).map
    (fun t => (t.data, t.flags, t.pc)) = some ([], ⟨true, true⟩, 0x101) := by decide
/-- L8 -/
theorem test_ldADir_x : acc (after { flagged 0x100 true false with x := 0x5A } [0x1F, 0x80])
    = some (0x5A, ⟨false, false⟩, 0x102) := by decide
/-- M19 -/
theorem test_ldADir : acc (after (withByte (at_ 0x100) 0x34 0x45) [0x1F, 0x34])
    = some (0x45, ⟨false, false⟩, 0x102) := by decide
/-- L9 -/
theorem test_ldDirA : byteAt 0xC4 (after { flagged 0x100 true true with a := 0x55 } [0x9F, 0xC4])
    = some (0x55, ⟨false, true⟩, 0x102) := by decide
/-- L10 -/
theorem test_ldiA : acc (after { flagged 0x100 false true with a := 0x99 } [0x17, 0x00])
    = some (0x00, ⟨true, true⟩, 0x102) := by decide
/-- L12 -/
theorem test_ldiDir : byteAt 0x34 (after (flagged 0x100 true true) [0x0D, 0x34, 0x45])
    = some (0x45, ⟨true, true⟩, 0x103) := by decide
/-- L11: LDI into A writes no flag. -/
theorem test_clrDir_acc : acc (after { flagged 0x100 false true with a := 0x12 } [0x0D, 0xFF, 0x00])
    = some (0x00, ⟨false, true⟩, 0x103) := by decide
/-- A10 -/
theorem test_clrDir : byteAt 0x22 (after (withByte (flagged 0x100 false true) 0x22 0x33) [0x0D, 0x22, 0x00])
    = some (0x00, ⟨false, true⟩, 0x103) := by decide

/-! ### Arithmetic and logic -/

/-- A1 -/
theorem test_addDir_wraps : acc (after (withByte { at_ 0x100 with a := 0xFF } 0x84 0x01) [0x5F, 0x84])
    = some (0x00, ⟨true, true⟩, 0x102) := by decide
/-- A2: the incoming C is not added. -/
theorem test_addDir : acc (after (withByte { flagged 0x100 true true with a := 0x20 } 0x22 0x33) [0x5F, 0x22])
    = some (0x53, ⟨false, false⟩, 0x102) := by decide
/-- A3 -/
theorem test_addInd : acc (after (withByte { at_ 0x100 with y := 0x84, a := 0x20 } 0x84 0xF0) [0x4F])
    = some (0x10, ⟨false, true⟩, 0x101) := by decide
/-- A4 -/
theorem test_addi : acc (after (flagged 0x100 false true) [0x57, 0x00]) = some (0x00, ⟨true, false⟩, 0x102) := by
  decide
/-- A5 -/
theorem test_slaA : acc (after { at_ 0x100 with a := 0x80 } [0x5F, 0xFF]) = some (0x00, ⟨true, true⟩, 0x102) := by
  decide
/-- M26 -/
theorem test_slaA_carry : acc (after { at_ 0x100 with a := 0xCD } [0x5F, 0xFF])
    = some (0x9A, ⟨false, true⟩, 0x102) := by decide
/-- A6 -/
theorem test_andInd : acc (after (withByte { flagged 0x100 false true with x := 0x85, a := 0xF0 } 0x85 0x0F) [0xA7])
    = some (0x00, ⟨true, true⟩, 0x101) := by decide
/-- M3 -/
theorem test_andDir : acc (after (withByte { flagged 0x100 true true with a := 0xCC } 0x54 0xF0) [0xBF, 0x54])
    = some (0xC0, ⟨false, true⟩, 0x102) := by decide
/-- A8 -/
theorem test_andi : acc (after { flagged 0x100 true false with a := 0x0F } [0xB7, 0x33])
    = some (0x03, ⟨false, false⟩, 0x102) := by decide
/-- A9 -/
theorem test_clrA : acc (after { flagged 0x100 false true with a := 0x5A } [0xDF, 0xFF])
    = some (0x00, ⟨true, false⟩, 0x102) := by decide
/-- M7 -/
theorem test_com : acc (after { at_ 0x100 with a := 0xB9 } [0x2D]) = some (0x46, ⟨false, true⟩, 0x101) := by
  decide
/-- R171: FFh. -/
theorem test_com_ff : acc (after { at_ 0x100 with a := 0xFF } [0x2D]) = some (0x00, ⟨true, true⟩, 0x101) := by
  decide
/-- M8: the ST62/63 carry. -/
theorem test_cpDir : acc (after (withByte { flagged 0x100 true true with a := 0xF8 } 0x34 0x1C) [0x3F, 0x34])
    = some (0xF8, ⟨false, false⟩, 0x102) := by decide
/-- A14 -/
theorem test_cpDir_acc : acc (after { flagged 0x100 false true with a := 0x42 } [0x3F, 0xFF])
    = some (0x42, ⟨true, false⟩, 0x102) := by decide
/-- A13: an unsigned comparison. -/
theorem test_cpInd : acc (after (withByte { flagged 0x100 true false with x := 0x84, a := 0x7F } 0x84 0x80) [0x27])
    = some (0x7F, ⟨false, true⟩, 0x101) := by decide
/-- A15 -/
theorem test_cpi : acc (after { flagged 0x100 true false with a := 0x42 } [0x37, 0x43])
    = some (0x42, ⟨false, true⟩, 0x102) := by decide
/-- A18 -/
theorem test_subDir_borrow : acc (after (withByte (flagged 0x100 true false) 0x84 0x01) [0xDF, 0x84])
    = some (0xFF, ⟨false, true⟩, 0x102) := by decide
/-- A19 -/
theorem test_subDir_equal : acc (after (withByte { flagged 0x100 false true with a := 0x53 } 0x84 0x53) [0xDF, 0x84])
    = some (0x00, ⟨true, false⟩, 0x102) := by decide
/-- M27 -/
theorem test_subInd : acc (after (withByte { flagged 0x100 true true with y := 0x23, a := 0x78 } 0x23 0x53) [0xCF])
    = some (0x25, ⟨false, false⟩, 0x101) := by decide
/-- A22 -/
theorem test_subi : acc (after { flagged 0x100 true true with a := 0x56 } [0xD7, 0x25])
    = some (0x31, ⟨false, false⟩, 0x102) := by decide
/-- A24: wraps, C untouched. -/
theorem test_decReg : (after (flagged 0x100 true true) [0x1D]).map (fun t => (t.x, t.flags, t.pc))
    = some (0xFF, ⟨false, true⟩, 0x101) := by decide
/-- A25: X points at itself. -/
theorem test_decInd_self : (after { flagged 0x100 true false with x := 0x80 } [0xE7]).map
    (fun t => (t.x, t.flags, t.pc)) = some (0x7F, ⟨false, false⟩, 0x101) := by decide
/-- M10 -/
theorem test_decInd : byteAt 0x45 (after (withByte { at_ 0x100 with x := 0x45 } 0x45 0x16) [0xE7])
    = some (0x15, ⟨false, false⟩, 0x101) := by decide
/-- R177 -/
theorem test_decDir : byteAt 0x90 (after (withByte (flagged 0x100 false true) 0x90 0x01) [0xFF, 0x90])
    = some (0x00, ⟨true, true⟩, 0x102) := by decide
/-- A26 -/
theorem test_decA : acc (after (flagged 0x100 true false) [0xFF, 0xFF]) = some (0xFF, ⟨false, false⟩, 0x102) := by
  decide
/-- A27 -/
theorem test_incReg : (after { at_ 0x100 with w := 0xFF } [0xD5]).map (fun t => (t.w, t.flags, t.pc))
    = some (0x00, ⟨true, false⟩, 0x101) := by decide
/-- M11 -/
theorem test_incInd : byteAt 0x45 (after (withByte { at_ 0x100 with x := 0x45 } 0x45 0x16) [0x67])
    = some (0x17, ⟨false, false⟩, 0x101) := by decide
/-- A29 -/
theorem test_incDir : byteAt 0x90 (after (withByte (flagged 0x100 true true) 0x90 0x7F) [0x7F, 0x90])
    = some (0x80, ⟨false, true⟩, 0x102) := by decide
/-- A28 -/
theorem test_incA : acc (after { at_ 0x100 with a := 0xFF } [0x7F, 0xFF]) = some (0x00, ⟨true, false⟩, 0x102) := by
  decide
/-- A30 -/
theorem test_rlc : acc (after { at_ 0x100 with a := 0x80 } [0xAD]) = some (0x00, ⟨true, true⟩, 0x101) := by decide
/-- A31 -/
theorem test_rlc_carry_in : acc (after (flagged 0x100 true true) [0xAD]) = some (0x01, ⟨false, false⟩, 0x101) := by
  decide

/-! ### Branches -/

/-- B1 -/
theorem test_jrnz : there (after (at_ 0x020) [0xD0]) = some (0x01B, ⟨false, false⟩) := by decide
/-- B12: wraps below 000h. -/
theorem test_jrnz_wraps : there (after (at_ 0x005) [0x80]) = some (0xFF6, ⟨false, false⟩) := by decide
/-- B3 -/
theorem test_jrnc : there (after (at_ 0x020) [0xD2]) = some (0x01B, ⟨false, false⟩) := by decide
/-- R202: not taken. -/
theorem test_jrnc_not : there (after (flagged 0x020 false true) [0xD2]) = some (0x021, ⟨false, true⟩) := by decide
/-- B4 -/
theorem test_jrz : there (after (flagged 0x100 true false) [0x3C]) = some (0x108, ⟨true, false⟩) := by decide
/-- B5 -/
theorem test_jrz_not : there (after (at_ 0x100) [0x3C]) = some (0x101, ⟨false, false⟩) := by decide
/-- B7 -/
theorem test_jrc : there (after (flagged 0x200 false true) [0x16]) = some (0x203, ⟨false, true⟩) := by decide
/-- B13: wraps above FFFh. -/
theorem test_jrc_wraps : there (after (flagged 0xFF8 false true) [0x7E]) = some (0x008, ⟨false, true⟩) := by decide
/-- B9, B10 -/
theorem test_nop : there (after (flagged 0x880 true false) [0x04]) = some (0x881, ⟨true, false⟩)
    ∧ there (after (at_ 0x880) [0x04]) = some (0x881, ⟨false, false⟩) := by decide
/-- M16 -/
theorem test_jrr : there (after (withByte (flagged 0x06E true true) 0x70 0xEF) [0x23, 0x70, 0xEA])
    = some (0x05A, ⟨true, false⟩) := by decide
/-- M16, not taken. -/
theorem test_jrr_not : there (after (withByte (at_ 0x06E) 0x70 0x10) [0x23, 0x70, 0xEA])
    = some (0x071, ⟨false, true⟩) := by decide
/-- M17 -/
theorem test_jrs : there (after (withByte (at_ 0x07B) 0xAF 0x80) [0xF3, 0xAF, 0x17])
    = some (0x094, ⟨false, true⟩) := by decide
/-- B16: to itself, on a bit of A. -/
theorem test_jrs_self : there (after { at_ 0x400 with a := 1 } [0x13, 0xFF, 0xFE])
    = some (0x400, ⟨false, true⟩) := by decide
/-- B21: the alternative base. -/
theorem test_btBase : there (after { withByte (at_ 0x06E) 0x70 0xEF with
    cfg := { Config.testPlatform with btBase := 3 } } [0x23, 0x70, 0xEA]) = some (0x05B, ⟨false, false⟩) := by
  decide

/-! ### Jump, call, return -/

/-- J2 -/
theorem test_jp : there (after (flagged 0x100 true true) [0xA9, 0x3F]) = some (0x3FA, ⟨true, true⟩) := by decide
/-- J5: the return address wraps. -/
theorem test_call_wraps : (after { at_ 0xFFE with stk := ⟨9, 0, 0, 0, 0, 0⟩ } [0x01, 0x88]).map
    (fun t => (t.pc, t.sp.val, t.stk.l1)) = some (0x880, 1, 0x000) := by decide
/-- J6: a full stack. -/
theorem test_call_full : (after { at_ 0x343 with sp := 6, stk := ⟨0x111, 0x222, 0x333, 0x444, 0x555, 0x666⟩ }
    [0xC1, 0x8D]).map (fun t => (t.pc, t.sp.val, t.stk))
    = some (0x8DC, 6, ⟨0x111, 0x222, 0x333, 0x444, 0x555, 0x345⟩) := by decide
/-- K3: RET inside an interrupt routine. -/
theorem test_ret : (after { at_ 0x8A5 with mode := .int, sp := 1, stk := ⟨0x888, 0, 0, 0, 0, 0⟩ } [0xCD]).map
    (fun t => (t.pc, t.sp.val, t.mode)) = some (0x888, 0, .int) := by decide
/-- K2: the stack is empty. -/
theorem test_ret_empty : (after (at_ 0x456) [0xCD]).map (fun t => (t.pc, t.sp.val)) = some (0x457, 0) := by decide
/-- K5: a nested NMI. -/
theorem test_reti_nested : (after { at_ 0x456 with
    mode := .nmi, nmiRet := .int, sp := 2, stk := ⟨0x120, 0x3DF, 0, 0, 0, 0⟩ } [0x4D]).map
    (fun t => (t.pc, t.sp.val, t.stk.l1, t.mode)) = some (0x3DF, 1, 0x120, .int) := by decide
/-- K6: after reset. -/
theorem test_reti_reset : (after { State.reset with pc := 0x886 } [0x4D]).map (fun t => (t.pc, t.sp.val, t.mode))
    = some (0x887, 0, .normal) := by decide
/-- K8 -/
theorem test_stop : (after (flagged 0x900 true true) [0x6D]).map (fun t => (t.pc, t.run, t.flags, t.bus))
    = some (0x901, .stopped, ⟨true, true⟩, [.haltStop]) := by decide
/-- K9 -/
theorem test_wait : (after (flagged 0x900 true true) [0xED]).map (fun t => (t.pc, t.run, t.flags, t.bus))
    = some (0x901, .waiting, ⟨true, true⟩, [.haltWait]) := by decide

/-! ### Bits -/

/-- S1: the byte is read once and written once. -/
theorem test_resBit : (after (withByte (flagged 0x100 true true) 0x23 0xFF) [0x2B, 0x23]).map
    (fun t => (t.data, t.flags, t.pc, t.bus))
    = some ([(0x23, 0xEF)], ⟨true, true⟩, 0x102, [.write 0x23 0xEF, .read 0x23 0xFF]) := by decide
/-- S3: no update of Z. -/
theorem test_resBit_zero : byteAt 0xC0 (after (withByte (flagged 0x100 false true) 0xC0 0x01) [0x0B, 0xC0])
    = some (0x00, ⟨false, true⟩, 0x102) := by decide
/-- S4 -/
theorem test_setBit : byteAt 0x23 (after (at_ 0x100) [0x3B, 0x23]) = some (0x10, ⟨false, false⟩, 0x102) := by decide
/-- S6 -/
theorem test_setBit_x : byteAt 0x80 (after (at_ 0x100) [0xFB, 0x80]) = some (0x80, ⟨false, false⟩, 0x102) := by
  decide

/-! ### Illegal opcodes, flag pairs, the example device -/

/-- Section 2.8 -/
theorem test_illegal : faultOf (at_ 0x100) [0x8D] = some (.illegalOpcode 0x100 0x8D) := by decide
/-- R30: in INT mode the interrupt pair is written. -/
theorem test_pairs : (after { flagged 0x100 true true with mode := .int, a := 0xFF } [0x57, 0x02]).map
    (fun t => (t.normalFlags, t.intFlags, t.nmiFlags)) = some (⟨true, true⟩, ⟨false, true⟩, ⟨false, false⟩) := by
  decide
/-- R65: a read of 7Fh is byte 63 of the selected block. -/
theorem test_window : acc (after figure2 [0x1F, 0x7F]) = some (0xA5, ⟨false, false⟩, 0x902) := by decide
/-- U6: a write into the window, and a read of a reserved location. -/
theorem test_window_write : faultOf figure2 [0x9F, 0x40] = some (.romWrite 0x40)
    ∧ faultOf figure2 [0x1F, 0xC3] = some (.dataNotImplemented 0xC3) := by decide
/-- R36: a write to 0C9h of the example device is a write to the window register. -/
theorem test_window_register : (after { figure2 with a := 1 } [0x9F, 0xC9]).map (fun t => (t.windowSel, t.data))
    = some (0x01, []) := by decide
/-- R64: the page of RAM selected answers at 10h. -/
theorem test_ram_page : acc (after { paged with ramBank := 0x02, data := [(0x010, 0x05), (0x210, 0x07)] } [0x1F, 0x10])
    = some (0x07, ⟨false, false⟩, 0x902) := by decide
/-- R64, R78: under a page of I/O a store to 10h reaches the device and no RAM. -/
theorem test_io_page : (after { paged with ramBank := 0x01, a := 0x33, data := [(0x010, 0x05)] } [0x9F, 0x10]).map
    (fun t => (t.data, t.bus)) = some ([(0x010, 0x05)], [.write 0x10 0x33]) := by decide
/-- R121: operand bytes past FFFh come from 000h. -/
theorem test_fetch_wraps : there (after (at_ 0xFFF) [0xD9, 0x5C]) = some (0x5CD, ⟨false, false⟩)
    ∧ progRead 0x000 (placeInstruction (at_ 0xFFF) [0xD9, 0x5C]) = .ok 0x5C := by decide
/-- U7: nothing is loaded at the reset vector. -/
theorem test_unloaded : step State.reset = .fault (.fetchNotImplemented 0xFFE) := rfl

/-! ### Interrupts and reset -/

/-- `s` with interrupt requests. -/
def asked (s : State) (r : Requests) : State := { s with lines := ⟨false, r⟩ }

/-- I1 -/
theorem test_I1 : (next (asked (flagged 0x234 true false) ⟨false, false, true, false, false⟩)).map
    (fun t => ((t.pc, t.sp.val, t.stk.l1, t.mode), t.normalFlags, t.lines.requests, t.bus))
    = some ((0xFF4, 1, 0x234, .int), ⟨true, false⟩, .none, [.irqAck .irq2]) := by decide
/-- I2 -/
theorem test_I2 : (next (asked (at_ 0x234) ⟨false, true, false, false, true⟩)).map
    (fun t => (t.pc, t.mode, t.lines.requests)) = some (0xFF6, .int, ⟨false, false, false, false, true⟩) := by decide
/-- I3 -/
theorem test_I3 : (next (asked (at_ 0x234) ⟨true, true, false, false, false⟩)).map
    (fun t => (t.pc, t.sp.val, t.mode, t.nmiRet)) = some (0xFFC, 1, .nmi, .normal) := by decide
/-- I4, I6 and I7: no entry. -/
theorem test_masked : acceptable (asked { at_ 0x8A0 with mode := .int } ⟨false, true, false, false, false⟩) = none
    ∧ acceptable (asked { at_ 0x8B0 with mode := .nmi } ⟨true, true, false, false, false⟩) = none
    ∧ acceptable (asked figure2 ⟨false, false, false, true, false⟩) = none := by decide
/-- I5 -/
theorem test_I5 : (next (asked { at_ 0x8A0 with mode := .int, sp := 1, stk := ⟨0x234, 0, 0, 0, 0, 0⟩ }
    ⟨true, false, false, false, false⟩)).map (fun t => (t.pc, t.sp.val, t.stk.l2, t.mode, t.nmiRet))
    = some (0xFFC, 2, 0x8A0, .nmi, .int) := by decide
/-- I8 -/
theorem test_I8 : (next (asked figure2 ⟨true, false, false, false, false⟩)).map (fun t => (t.pc, t.mode))
    = some (0xFFC, .nmi) := by decide
/-- I9 -/
theorem test_I9 : (next (asked { at_ 0x901 with run := .waiting } ⟨false, false, false, true, false⟩)).map
    (fun t => (t.pc, t.stk.l1, t.mode, t.run)) = some (0xFF2, 0x901, .int, .running) := by decide
/-- I10 -/
theorem test_I10 : next (asked { at_ 0x901 with run := .stopped, mode := .int } ⟨false, true, false, false, false⟩)
    = some (asked { at_ 0x901 with run := .stopped, mode := .int } ⟨false, true, false, false, false⟩) := by decide
/-- I11 -/
theorem test_I11 : next { at_ 0x901 with run := .waiting } = some { at_ 0x901 with run := .waiting } := by decide
/-- I12: reset overrides a waiting NMI. -/
theorem test_I12 : (next { at_ 0x234 with run := .stopped, sp := 3, lines := ⟨true, .all⟩ }).map
    (fun t => (t.pc, t.mode, t.nmiRet, t.sp.val, t.run)) = some (0xFFE, .nmi, .normal, 0, .running) := by decide
/-- I13 -/
theorem test_I13 : (next (asked { at_ 0x234 with sp := 6, stk := ⟨1, 2, 3, 4, 5, 6⟩ }
    ⟨false, true, false, false, false⟩)).map (fun t => (t.pc, t.sp.val, t.stk))
    = some (0xFF6, 6, ⟨1, 2, 3, 4, 5, 0x234⟩) := by decide
/-- The lines of the coming boundary are looked at before the instruction (R262, R264). -/
theorem test_inputs : (next { at_ 0x234 with
    inputs := [{ lines := ⟨false, ⟨false, false, false, false, true⟩⟩, writes := [(0x90, 0x07)] }] }).map
    (fun t => (t.pc, t.data, t.inputs)) = some (0xFF0, [(0x90, 0x07)], []) := by decide

/-- The platform may change the control registers between instructions (R285): here the option register, so
that the interrupt waiting is accepted. -/
theorem test_platform_changes_control_registers : (next { asked figure2 ⟨false, false, false, true, false⟩ with
    inputs := [{ lines := ⟨false, ⟨false, false, false, true, false⟩⟩, writes := [], irqOption := some 0x10 }] }).map
    (fun t => (t.pc, t.irqOption, t.progBank)) = some (0xFF2, 0x10, 0x00) := by decide

/-- The host's placing: the first instruction after reset. -/
theorem test_withFetchWord : (next (State.reset.withFetchWord 16 0x88D9)).map (fun t => (t.pc, t.mode))
    = some (0x88D, .nmi) := by decide

/-! ### Witnesses: for each obligation with hypotheses, states and operands that meet them -/

/-- Full stack, stopping on a seventh push. -/
def full : State := { at_ 0x343 with sp := 6, cfg := { Config.testPlatform with stackOverflow := .stop } }

/-- Waiting in NORMAL mode with interrupts #3 and #1 requested. -/
def waiting : State := asked { at_ 0x901 with run := .waiting } ⟨false, true, false, true, false⟩

/-- Stopped in NMI mode, with a boundary to come that requests everything but a reset. -/
def stuck : State := { State.reset with run := .stopped, inputs := [{ lines := ⟨false, .all⟩, writes := [] }] }

/-- NOP placed at 234h, nothing pending. -/
def placed : State := placeInstruction (at_ 0x234) [0x04]

theorem witness_TwelveOpcodesAreIllegal :
    ((0x05 : Byte) ∈ illegalOpcodes ∧ (0xF7 : Byte) ∈ illegalOpcodes)
    ∧ (0x00 : Byte) ∉ illegalOpcodes ∧ (0xFF : Byte) ∉ illegalOpcodes := by decide
theorem witness_ExtendedAddressHalves :
    (0x5CD : Addr).toNat = 16 * (0x5C : Byte).toNat + (0xD : BitVec 4).toNat
    ∧ (0x000 : Addr).toNat = 16 * (0x00 : Byte).toNat + (0x0 : BitVec 4).toNat
    ∧ (0xFFF : Addr).toNat = 16 * (0xFF : Byte).toNat + (0xF : BitVec 4).toNat := by decide
theorem witness_DecodeOfEncodeIsIdentity :
    (Instr.jrz 1).wellFormed = true ∧ (Instr.addDir 0xFE).wellFormed = true
    ∧ (Instr.ldiDir 0xFF 1).wellFormed = true ∧ (Instr.illegal 0x05).wellFormed = true := by decide
theorem witness_EncodeOfDecodeIsTheBytesRead :
    decode [0x0D, 0xFF, 0x01, 0x05] = .ok (.ldiDir 0xFF 0x01) ∧ decode [0x05] = .ok (.illegal 0x05) := by decide
theorem witness_DataReadRouting :
    ((0x00 : Byte) ∉ [0xFF, 0x80, 0x81, 0x82, 0x83] ∧ (at_ 0).kind 0x00 ≠ .absent)
    ∧ ((0xFE : Byte) ∉ [0xFF, 0x80, 0x81, 0x82, 0x83] ∧ (at_ 0).kind 0xFE ≠ .absent)
    ∧ ((0x3F : Byte) ∉ [0xFF, 0x80, 0x81, 0x82, 0x83] ∧ figure2.kind 0x3F = .absent)
    ∧ ((0x00 : Byte).toNat < 0x40 ∧ (0x3F : Byte).toNat < 0x40)
    ∧ paged.cfg.wf = true ∧ 0x40 ≤ (0x40 : Byte).toNat ∧ 0x40 ≤ (0xFF : Byte).toNat := by decide
theorem witness_DataWriteRouting :
    (writable figure2 0x84 = true ∧ writable figure2 0xC9 = true ∧ writable figure2 0xD8 = true)
    ∧ (0x83 : Byte) ∈ [0xFF, 0x80, 0x81, 0x82, 0x83]
    ∧ ((0x40 : Byte) ∉ [0xFF, 0x80, 0x81, 0x82, 0x83] ∧ figure2.kind 0x40 = .romWindow)
    ∧ ((0xFE : Byte) ∉ [0xFF, 0x80, 0x81, 0x82, 0x83] ∧ figure2.kind 0xFE = .absent) := by decide
theorem witness_ReadAfterWriteReturnsTheByte :
    ((coreReg 0x83).isSome = true ∧ (coreReg 0xFF).isSome = true)
    ∧ (inStore figure2 0x84 = true ∧ inStore figure2 0xBF = true)
    ∧ (coreReg 0x00 = none ∧ paged.kind 0x00 = .pagedRam ∧ coreReg 0x3F = none ∧ paged.kind 0x3F = .pagedRam)
    ∧ paged.cfg.ramPages.getD (0x02 : Byte).toNat 0 ≠ paged.cfg.ramPages.getD paged.ramBank.toNat 0
    ∧ { paged with ramBank := 0x02 }.kind 0x3F = .pagedRam := by decide
theorem witness_CanonicalStoresAreEqual :
    Memory.wf [(0x84, 0x05), (0x90, 0x01)] = true
    ∧ ∀ k, Memory.get [(0x84, 0x05), (0x90, 0x01)] k = Memory.get [(0x84, 0x05), (0x90, 0x01)] k :=
  ⟨by decide, fun _ => rfl⟩
theorem witness_WindowReadsSelectedBlock :
    (0 < 64 ∧ figure2.kind (BitVec.ofNat 8 (0x40 + 0)) = .romWindow
      ∧ Memory.find figure2.prog (64 * figure2.cfg.windowBlocks.getD figure2.windowSel.toNat 0 + 0) = some 0x5A)
    ∧ (63 < 64 ∧ figure2.kind (BitVec.ofNat 8 (0x40 + 63)) = .romWindow
      ∧ Memory.find figure2.prog (64 * figure2.cfg.windowBlocks.getD figure2.windowSel.toNat 0 + 63) = some 0xA5) := by
  decide
theorem witness_ProgramPagingIsLowerHalfOnly :
    (0x800 ≤ (0x800 : Addr).toNat ∧ 0x800 ≤ (0xFFF : Addr).toNat)
    ∧ ((0x7FF : Addr).toNat < 0x800 ∧ Memory.find { figure2 with progBank := 8 }.prog ((0x7FF : Addr).toNat
        + 4096 * { figure2 with progBank := 8 }.cfg.progPages.getD { figure2 with progBank := 8 }.progBank.toNat 0)
        = some 0x77)
    ∧ progKey figure2 0x7FF = progKey figure2 0x7FF := by decide
theorem witness_PushFillsTheNextLevel :
    (canPush (at_ 0) = true ∧ canPush { at_ 0 with sp := 5 } = true ∧ canPush { at_ 0 with sp := 6 } = true)
    ∧ canPush full = false := by decide
theorem witness_PopTakesTheTopLevel :
    (0 < { at_ 0 with sp := 1 }.sp.val ∧ 0 < { at_ 0 with sp := 6 }.sp.val) ∧ (at_ 0).sp.val = 0 := by decide
theorem witness_LoadAccumulatorResults :
    readable figure2 0x40 = true ∧ readable figure2 0xFF = true
    ∧ readable { figure2 with x := 0x7F } ({ figure2 with x := 0x7F }.pointer .x) = true := by decide
theorem witness_StoreAccumulatorResults :
    writable figure2 0xBF = true ∧ writable figure2 0xFF = true
    ∧ writable { figure2 with y := 0x84 } ({ figure2 with y := 0x84 }.pointer .y) = true := by decide
theorem witness_LoadImmediateToDataSpaceResults :
    writable figure2 0x80 = true ∧ writable figure2 0xFF = true ∧ writable (at_ 0) 0x00 = true := by decide
theorem witness_AddResults :
    readable figure2 0xFF = true ∧ readable { figure2 with x := 0x84 } ({ figure2 with x := 0x84 }.pointer .x) = true := by
  decide
theorem witness_SubtractResults :
    readable figure2 0x84 = true ∧ readable { figure2 with y := 0xFF } ({ figure2 with y := 0xFF }.pointer .y) = true := by
  decide
theorem witness_CompareResults :
    readable figure2 0xD0 = true ∧ readable { figure2 with x := 0x80 } ({ figure2 with x := 0x80 }.pointer .x) = true := by
  decide
theorem witness_AndResults :
    readable (at_ 0) 0x00 = true ∧ readable { at_ 0 with x := 0xFE } ({ at_ 0 with x := 0xFE }.pointer .x) = true := by
  decide
theorem witness_DecrementResults :
    writable (at_ 0) 0xFF = true ∧ writable { at_ 0 with x := 0x80 } ({ at_ 0 with x := 0x80 }.pointer .x) = true := by
  decide
theorem witness_IncrementResults :
    writable (at_ 0) 0x00 = true ∧ writable { at_ 0 with y := 0xFF } ({ at_ 0 with y := 0xFF }.pointer .y) = true := by
  decide
theorem witness_BitTestBranchResults : readable (at_ 0) 0xFF = true ∧ readable figure2 0x7F = true := by decide
theorem witness_CallResult : canPush (at_ 0) = true ∧ canPush { at_ 0 with sp := 6 } = true := by decide
theorem witness_SeventhPushStopsWhereConfigured : full.sp.val = 6 ∧ full.cfg.stackOverflow = .stop := by decide
theorem witness_BitManipulationResults : writable (at_ 0) 0xFF = true ∧ writable figure2 0xC8 = true := by decide
theorem witness_FaultsNameTheirCause :
    exec (.illegal 0x05) full = .fault (.illegalOpcode 0x343 0x05)
    ∧ exec (.call 0x8DC) full = .fault (.stackOverflow 0x343)
    ∧ exec (.ldADir 0xC3) figure2 = .fault (.dataNotImplemented 0xC3)
    ∧ exec (.incDir 0x40) figure2 = .fault (.romWrite 0x40) := ⟨rfl, rfl, rfl, rfl⟩
theorem witness_AccessesFollowTheTable :
    (∃ t, exec (.incDir 0x84) figure2 = .next t) ∧ (∃ t, exec .stop figure2 = .next t)
    ∧ ∃ t, exec .wait figure2 = .next t := ⟨⟨_, rfl⟩, ⟨_, rfl⟩, ⟨_, rfl⟩⟩
theorem witness_StoresOnlyAtTheWriteAddress :
    (∃ t, exec .com figure2 = .next t) ∧ writeAddress .com figure2 = none
    ∧ (∃ t, exec (.ldDirA 0x84) figure2 = .next t) ∧ writeAddress (.ldDirA 0x84) figure2 = some 0x84 :=
  ⟨⟨_, rfl⟩, rfl, ⟨_, rfl⟩, rfl⟩
theorem witness_OnlyRetiChangesTheMode : (∃ t, exec .ret (at_ 0) = .next t) ∧ Instr.ret ≠ .reti :=
  ⟨⟨_, rfl⟩, by decide⟩
theorem witness_OtherFlagPairsAreKept :
    (∃ t, exec .com { at_ 0 with mode := .int } = .next t) ∧ { at_ 0 with mode := .int }.mode ≠ .normal
    ∧ (∃ t, exec .com (at_ 0) = .next t) ∧ (at_ 0).mode ≠ .int ∧ (at_ 0).mode ≠ .nmi :=
  ⟨⟨_, rfl⟩, by decide, ⟨_, rfl⟩, by decide, by decide⟩
theorem witness_UnusedFlagPairsAreInvisible :
    State.reset.mode ≠ .normal ∧ (at_ 0).mode ≠ .int ∧ (at_ 0).mode ≠ .nmi := by decide
theorem witness_OnlyCallsAndReturnsTouchTheStack :
    (∃ t, exec (.jp 5) (at_ 0) = .next t) ∧ (∀ abc, Instr.jp 5 ≠ .call abc) ∧ Instr.jp 5 ≠ .ret
    ∧ Instr.jp 5 ≠ .reti := ⟨⟨_, rfl⟩, fun _ h => (by cases h), by decide, by decide⟩
theorem witness_NoStepWritesProgramSpace : ∃ t, step placed = .next t := ⟨_, rfl⟩
theorem witness_StepKeepsTheStateWellFormed : placed.wf = true ∧ ∃ t, step placed = .next t :=
  ⟨by decide, _, rfl⟩
theorem witness_StepRunsTheDecodedInstruction :
    (sample placed).lines.reset = false ∧ acceptable (sample placed) = none ∧ (sample placed).run = .running
    ∧ bytesAt (sample placed) (sample placed).pc [0x04] ∧ decode [0x04] = .ok .nop :=
  ⟨rfl, rfl, rfl, ⟨rfl, trivial⟩, rfl⟩
theorem witness_PlacedInstructionRunsNext : decodeTableWord 24 0xEA7023 = some (.jrr 4 0x70 0xEA) := by decide
theorem witness_StepOrder :
    ((at_ 0).inputs = [] ∧ ∃ i rest, stuck.inputs = i :: rest)
    ∧ ((sample State.reset).lines.reset = false ∧ acceptable (sample State.reset) = none
      ∧ (sample State.reset).run = .running
      ∧ fetch (sample State.reset) = .error (.fetchNotImplemented 0xFFE))
    ∧ (sample { at_ 0 with lines := ⟨true, .all⟩ }).lines.reset = true
    ∧ ((sample waiting).lines.reset = false ∧ acceptable (sample waiting) = some .irq1)
    ∧ ((sample placed).lines.reset = false ∧ acceptable (sample placed) = none
      ∧ (sample placed).run = .running ∧ fetch (sample placed) = .ok .nop)
    ∧ ((sample stuck).lines.reset = false ∧ acceptable (sample stuck) = none ∧ (sample stuck).run ≠ .running) :=
  ⟨⟨rfl, _, _, rfl⟩, ⟨rfl, rfl, rfl, rfl⟩, rfl, ⟨rfl, rfl⟩, ⟨rfl, rfl, rfl, rfl⟩, rfl, rfl, by decide⟩
theorem witness_InterruptEntry :
    canPush waiting = true ∧ ((Source.irq1 = .nmi → waiting.mode ≠ .nmi) ∧ (Source.nmi = .nmi → waiting.mode ≠ .nmi)) := by
  decide
theorem witness_AcknowledgeDropsOnlyAnEdgeRequest : ∃ t, enterInterrupt .irq3 waiting = .next t := ⟨_, rfl⟩
theorem witness_InterruptEndsWaitAndStop :
    (stuck.run ≠ .running ∧ (sample stuck).lines.reset = false ∧ acceptable (sample stuck) = none)
    ∧ waiting.run ≠ .running ∧ (sample waiting).lines.reset = false
    ∧ acceptable (sample waiting) = some .irq1 ∧ canPush waiting = true := by decide
theorem witness_WaitInNmiModeEndsOnlyByReset :
    (globalEnable figure2 = false ∧ acceptable (asked figure2 .all) = some .nmi)
    ∧ stuck.mode = .nmi ∧ stuck.run ≠ .running ∧ stuck.lines.reset = false
    ∧ ∀ i ∈ stuck.inputs, i.lines.reset = false := by decide
theorem witness_EntryThenRetiRestores :
    (acceptable waiting = some .irq1 ∧ waiting.sp.val < 6)
    ∧ acceptable (asked { at_ 0 with mode := .int, sp := 5 } .all) = some .nmi := by decide
theorem witness_ResetState : (sample { at_ 0 with lines := ⟨true, .all⟩ }).lines.reset = true := by decide

end Sys2Proof.Tests
end

section
/-! SUPPORT. The stack operations said as the statements say them, and what an instruction neither sees nor
changes: the flag pairs the mode does not select, and, for all but CALL, RET and RETI, the stack. -/

namespace Sys2Proof.Machine

/-! ### Push and pop -/

theorem canPush_eq_false_iff (s : State) :
    canPush s = false ↔ s.sp.val = 6 ∧ s.cfg.stackOverflow = .stop := by
  have : s.sp.val < 7 := s.sp.isLt
  simp only [canPush, Bool.or_eq_false_iff, decide_eq_false_iff_not, not_not, not_lt]
  exact and_congr_left fun _ => by omega

theorem push_ok_of_canPush {s : State} (v : Addr) (h : canPush s = true) : ∃ t, push v s = .ok t := by
  rcases push_cases v s with ⟨_, e⟩ | ⟨_, _, e⟩ | ⟨_, _, e⟩ | ⟨h6, hstop, _⟩
  · exact ⟨_, e⟩
  · exact ⟨_, e⟩
  · exact ⟨_, e⟩
  · rw [(canPush_eq_false_iff s).mpr ⟨h6, hstop⟩] at h
    cases h

theorem push_error_of_not_canPush {s : State} (v : Addr) (h : canPush s = false) :
    push v s = .error (.stackOverflow s.pc) := by
  obtain ⟨h6, hstop⟩ := (canPush_eq_false_iff s).mp h
  simp [push, h6, hstop]

/-- A push that answers fills the next level, or treats level 6 as the configuration says. -/
theorem push_pushed {v : Addr} {s t : State} (h : push v s = .ok t) : Pushed s t v := by
  rcases push_cases v s with ⟨hfree, e⟩ | ⟨h6, hc, e⟩ | ⟨h6, hc, e⟩ | ⟨_, _, e⟩ <;> rw [e] at h <;> cases h
  case inl =>
    refine ⟨fun _ => ⟨rfl, ?_, fun n hn => Stack.level_setLevel_other _ _ hn⟩, fun h6 => by omega⟩
    exact Stack.level_setLevel_same s.stk (s.sp.val + 1) v (by omega)
  case inr.inl =>
    refine ⟨fun hfree => by omega, fun _ => ⟨h6, fun n hn => Stack.level_setLevel_other _ _ hn, ?_⟩⟩
    rw [if_pos hc]
    exact Stack.level_setLevel_same s.stk 6 v (by decide)
  case inr.inr.inl =>
    exact ⟨fun hfree => by omega, fun _ => ⟨h6, fun _ _ => rfl, by simp [hc]⟩⟩

theorem pop_of_sp_pos {s : State} (h : 0 < s.sp.val) :
    pop s = some (s.stk.level s.sp.val, { s with sp := ⟨s.sp.val - 1, by omega⟩ }) := by
  rcases pop_cases s with ⟨h0, _⟩ | ⟨_, e⟩
  · omega
  · exact e

theorem pop_of_sp_zero {s : State} (h : s.sp.val = 0) : pop s = none := by
  rcases pop_cases s with ⟨_, e⟩ | ⟨hpos, _⟩
  · exact e
  · omega

theorem popPc_of_sp_zero {s : State} (h : s.sp.val = 0) : popPc s = s.advance 1 := by
  simp [popPc, pop_of_sp_zero h]

theorem State.advance_eq (s : State) (len : Nat) :
    s.advance len = { s with pc := BitVec.ofNat 12 (s.pc.toNat + len) } := by
  simp [State.advance, BitVec.ofNat_add]

/-! ### The instructions that use the stack -/

/-- CALL, RET and RETI. -/
def usesStack : Instr → Bool
  | .call _ | .ret | .reti => true
  | _ => false

theorem usesStack_cases {i : Instr} (h : usesStack i = true) :
    (∃ abc, i = .call abc) ∨ i = .ret ∨ i = .reti := by
  unfold usesStack at h
  split at h
  · exact .inl ⟨_, rfl⟩
  · exact .inr (.inl rfl)
  · exact .inr (.inr rfl)
  · cases h

/-! ### Patches: changes of the stack and of the flag pairs

A patch changes the stack pointer, the stack levels and the flag pairs. The results below say for which
patches it makes no difference whether an instruction runs before or after them. That is what "the
instruction does not see these parts" means; and for a patch that leaves the first state as it is, it says
that the instruction does not change them (`Patch.fixes_next`). -/

/-- A change of the stack and of the three flag pairs. -/
structure Patch where
  sp : Fin 7 → Fin 7
  stk : Stack → Stack
  flags : Mode → FlagPair → FlagPair

namespace Patch

/-- The state with the patch applied. -/
def apply (p : Patch) (s : State) : State :=
  { s with
    sp := p.sp s.sp
    stk := p.stk s.stk
    normalFlags := p.flags .normal s.normalFlags
    intFlags := p.flags .int s.intFlags
    nmiFlags := p.flags .nmi s.nmiFlags }

/-- The patch leaves the flag pair of mode `m` alone. -/
def KeepsPair (p : Patch) (m : Mode) : Prop := p.flags m = id

/-- The patch leaves the stack alone. -/
def KeepsStack (p : Patch) : Prop := p.sp = id ∧ p.stk = id

/-- The patch that puts `f` into the flag pair of mode `m`. -/
def setPair (m : Mode) (f : FlagPair) : Patch where
  sp := id
  stk := id
  flags := fun n => if n = m then fun _ => f else id

/-- The patch that puts `k` into the stack levels and `n` into the stack pointer. -/
def setStack (n : Fin 7) (k : Stack) : Patch where
  sp := fun _ => n
  stk := fun _ => k
  flags := fun _ => id

theorem setPair_keepsPair {m n : Mode} (f : FlagPair) (h : n ≠ m) : (setPair m f).KeepsPair n := if_neg h

theorem setPair_keepsStack (m : Mode) (f : FlagPair) : (setPair m f).KeepsStack := ⟨rfl, rfl⟩

theorem setStack_keepsPair (n : Fin 7) (k : Stack) (m : Mode) : (setStack n k).KeepsPair m := rfl

section
variable (p : Patch) (s : State)

/-! What a patch leaves of the state. -/

@[simp] theorem apply_a : (p.apply s).a = s.a := rfl
@[simp] theorem apply_pc : (p.apply s).pc = s.pc := rfl
@[simp] theorem apply_mode : (p.apply s).mode = s.mode := rfl
@[simp] theorem apply_reg (r : ShortReg) : (p.apply s).reg r = s.reg r := rfl
@[simp] theorem apply_kind (ea : Byte) : (p.apply s).kind ea = s.kind ea := rfl
@[simp] theorem apply_dataByte (ea : Byte) : dataByte (p.apply s) ea = dataByte s ea := rfl
@[simp] theorem apply_readable (ea : Byte) : readable (p.apply s) ea = readable s ea := rfl
@[simp] theorem apply_writable (ea : Byte) : writable (p.apply s) ea = writable s ea := rfl

/-! The updates of the state commute with a patch. -/

@[simp] theorem setA_apply (b : Byte) : (p.apply s).setA b = p.apply (s.setA b) := rfl
@[simp] theorem setPc_apply (t : Addr) : (p.apply s).setPc t = p.apply (s.setPc t) := rfl
@[simp] theorem advance_apply (len : Nat) : (p.apply s).advance len = p.apply (s.advance len) := rfl
@[simp] theorem setReg_apply (r : ShortReg) (b : Byte) :
    (p.apply s).setReg r b = p.apply (s.setReg r b) := by cases r <;> rfl

@[simp] theorem afterRead_apply (ea : Byte) : afterRead (p.apply s) ea = p.apply (afterRead s ea) := by
  unfold afterRead
  cases coreReg ea <;> rfl

theorem platformStore_apply (ea b : Byte) :
    platformStore (p.apply s) ea b = p.apply (platformStore s ea b) := by
  unfold platformStore
  rw [apply_kind]
  cases s.kind ea <;> rfl

@[simp] theorem afterWrite_apply (ea b : Byte) :
    afterWrite (p.apply s) ea b = p.apply (afterWrite s ea b) := by
  unfold afterWrite
  cases coreReg ea with
  | none => rw [platformStore_apply]; rfl
  | some r =>
    cases r with
    | acc => rfl
    | short r => exact setReg_apply p s r b

end

/-! The pair in use: a patch that leaves it alone commutes with reading and writing it. -/

section
variable {p : Patch} {s : State}

@[simp] theorem apply_flags (h : p.KeepsPair s.mode) : (p.apply s).flags = s.flags := by
  unfold KeepsPair at h
  unfold State.flags
  rw [apply_mode]
  cases hm : s.mode <;> rw [hm] at h <;> simp [apply, h]

@[simp] theorem setFlags_apply (f : FlagPair) (h : p.KeepsPair s.mode) :
    (p.apply s).setFlags f = p.apply (s.setFlags f) := by
  unfold KeepsPair at h
  unfold State.setFlags
  rw [apply_mode]
  cases hm : s.mode <;> rw [hm] at h <;> simp [apply, h]

theorem setA_setFlags_apply (b : Byte) (f : FlagPair) (h : p.KeepsPair s.mode) :
    ((p.apply s).setA b).setFlags f = p.apply ((s.setA b).setFlags f) :=
  setFlags_apply (s := s.setA b) f h

@[simp] theorem setZ_apply (b : Bool) (h : p.KeepsPair s.mode) :
    (p.apply s).setZ b = p.apply (s.setZ b) := by simp [State.setZ, h]

@[simp] theorem setC_apply (b : Bool) (h : p.KeepsPair s.mode) :
    (p.apply s).setC b = p.apply (s.setC b) := by simp [State.setC, h]

/-! The results of the accumulator instructions. -/

@[simp] theorem loadA_apply (v : Byte) (h : p.KeepsPair s.mode) :
    loadA v (p.apply s) = p.apply (loadA v s) := setZ_apply (s := s.setA v) _ h

@[simp] theorem addA_apply (v : Byte) (h : p.KeepsPair s.mode) :
    addA v (p.apply s) = p.apply (addA v s) := setA_setFlags_apply _ _ h

@[simp] theorem subA_apply (v : Byte) (h : p.KeepsPair s.mode) :
    subA v (p.apply s) = p.apply (subA v s) := setA_setFlags_apply _ _ h

@[simp] theorem compareA_apply (v : Byte) (h : p.KeepsPair s.mode) :
    compareA v (p.apply s) = p.apply (compareA v s) := setFlags_apply _ h

@[simp] theorem andA_apply (v : Byte) (h : p.KeepsPair s.mode) :
    andA v (p.apply s) = p.apply (andA v s) := loadA_apply _ h

/-! The shapes of instruction: each commutes with a patch that its last part commutes with. -/

/-- `k` does not see the patch, in states whose pair in use the patch leaves alone. -/
def UnseenBy (p : Patch) (k : State → State) : Prop :=
  ∀ t, p.KeepsPair t.mode → k (p.apply t) = p.apply (k t)

theorem withSource_apply (ea : Byte) {k : Byte → State → State} (h : p.KeepsPair s.mode)
    (hk : ∀ b, p.UnseenBy (k b)) :
    withSource ea (p.apply s) k = mapNext p.apply (withSource ea s k) := by
  have hread := hk (dataByte s ea) (afterRead s ea) (by simpa using h)
  cases hr : readable s ea <;> simp [withSource, dataRead, hr, hread, mapNext]

theorem withStore_apply (ea b : Byte) {k : State → State} (h : p.KeepsPair s.mode) (hk : p.UnseenBy k) :
    withStore ea b (p.apply s) k = mapNext p.apply (withStore ea b s k) := by
  have hwrite := hk (afterWrite s ea b) (by simpa using h)
  cases hw : writable s ea
  · by_cases hrom : s.kind ea = .romWindow <;> simp [withStore, dataWrite, hw, hrom, mapNext]
  · simp [withStore, dataWrite, hw, hwrite, mapNext]

theorem withUpdate_apply (ea : Byte) (f : Byte → Byte) {k : Byte → State → State}
    (h : p.KeepsPair s.mode) (hk : ∀ b, p.UnseenBy (k b)) :
    withUpdate ea (p.apply s) f k = mapNext p.apply (withUpdate ea s f k) := by
  have hwrite := withStore_apply (s := afterRead s ea) ea (f (dataByte s ea)) (by simpa using h)
    (hk (f (dataByte s ea)))
  cases hr : readable s ea
  · simp [withUpdate, dataRead, hr, mapNext]
  · simpa [withUpdate, dataRead, hr] using hwrite

theorem loadFrom_apply (ea : Byte) (len : Nat) (h : p.KeepsPair s.mode) :
    loadFrom ea len (p.apply s) = mapNext p.apply (loadFrom ea len s) :=
  withSource_apply ea h fun b t ht => by simp [ht]

theorem addFrom_apply (ea : Byte) (len : Nat) (h : p.KeepsPair s.mode) :
    addFrom ea len (p.apply s) = mapNext p.apply (addFrom ea len s) :=
  withSource_apply ea h fun b t ht => by simp [ht]

theorem subFrom_apply (ea : Byte) (len : Nat) (h : p.KeepsPair s.mode) :
    subFrom ea len (p.apply s) = mapNext p.apply (subFrom ea len s) :=
  withSource_apply ea h fun b t ht => by simp [ht]

theorem compareFrom_apply (ea : Byte) (len : Nat) (h : p.KeepsPair s.mode) :
    compareFrom ea len (p.apply s) = mapNext p.apply (compareFrom ea len s) :=
  withSource_apply ea h fun b t ht => by simp [ht]

theorem andFrom_apply (ea : Byte) (len : Nat) (h : p.KeepsPair s.mode) :
    andFrom ea len (p.apply s) = mapNext p.apply (andFrom ea len s) :=
  withSource_apply ea h fun b t ht => by simp [ht]

theorem storeA_apply (ea : Byte) (len : Nat) (h : p.KeepsPair s.mode) :
    storeA ea len (p.apply s) = mapNext p.apply (storeA ea len s) :=
  withStore_apply ea s.a h fun t ht => by simp [ht]

theorem storeImmediate_apply (ea nn : Byte) (len : Nat) (h : p.KeepsPair s.mode) :
    storeImmediate ea nn len (p.apply s) = mapNext p.apply (storeImmediate ea nn len s) :=
  withStore_apply ea nn h fun t _ => advance_apply p t len

theorem increment_apply (ea : Byte) (len : Nat) (h : p.KeepsPair s.mode) :
    increment ea len (p.apply s) = mapNext p.apply (increment ea len s) :=
  withUpdate_apply ea _ h fun b t ht => by simp [ht]

theorem decrement_apply (ea : Byte) (len : Nat) (h : p.KeepsPair s.mode) :
    decrement ea len (p.apply s) = mapNext p.apply (decrement ea len s) :=
  withUpdate_apply ea _ h fun b t ht => by simp [ht]

theorem branchIf_apply (c : Bool) (e : BitVec 5) :
    branchIf c e (p.apply s) = mapNext p.apply (branchIf c e s) := by
  cases c <;> rfl

theorem branchOnBit_apply (want : Bool) (b : Fin 8) (rr ee : Byte) (h : p.KeepsPair s.mode) :
    branchOnBit want b rr ee (p.apply s) = mapNext p.apply (branchOnBit want b rr ee s) := by
  refine withSource_apply rr h fun v t ht => ?_
  dsimp only
  rw [setC_apply _ ht]
  split_ifs <;> rfl

/-! The stack: a patch that leaves it alone commutes with a call and with the returns. -/

theorem push_apply (v : Addr) (h : p.KeepsStack) :
    push v (p.apply s) = (push v s).map p.apply := by
  obtain ⟨hsp, hstk⟩ := h
  by_cases hfree : s.sp.val < 6
  · simp [push, apply, hsp, hstk, hfree, Except.map]
  · cases hc : s.cfg.stackOverflow <;> simp [push, apply, hsp, hstk, hfree, hc, Except.map]

theorem execCall_apply (abc : Addr) (h : p.KeepsStack) :
    execCall abc (p.apply s) = mapNext p.apply (execCall abc s) := by
  unfold execCall
  rw [apply_pc, push_apply _ h]
  cases push (s.pc + 2) s <;> rfl

theorem popPc_apply (h : p.KeepsStack) : popPc (p.apply s) = p.apply (popPc s) := by
  obtain ⟨hsp, hstk⟩ := h
  by_cases h0 : s.sp.val = 0 <;> simp [popPc, pop, apply, hsp, hstk, h0, State.setPc, State.advance]

theorem returnFromInterrupt_apply (h : p.KeepsStack) :
    returnFromInterrupt (p.apply s) = p.apply (returnFromInterrupt s) := by
  unfold returnFromInterrupt
  rw [popPc_apply h]
  rfl

end

/-! ### Every instruction -/

/-- An instruction does not see a patch that leaves the pair in use alone and, where the instruction is
CALL, RET or RETI, the stack too. -/
theorem exec_apply (p : Patch) (i : Instr) (s : State) (h : p.KeepsPair s.mode)
    (hs : usesStack i = true → p.KeepsStack) :
    exec i (p.apply s) = mapNext p.apply (exec i s) := by
  cases i with
  | jrnz e | jrnc e | jrz e | jrc e =>
    simp only [exec, execJrnz, execJrnc, execJrz, execJrc, apply_flags h, branchIf_apply]
  | jrr b rr ee => exact branchOnBit_apply false b rr ee h
  | jrs b rr ee => exact branchOnBit_apply true b rr ee h
  | call abc => exact execCall_apply abc (hs rfl)
  | ret => exact congrArg _ (popPc_apply (hs rfl))
  | reti => exact congrArg _ (returnFromInterrupt_apply (hs rfl))
  | jp _ | nop | stop | wait | illegal _ => rfl
  | resBit b rr | setBit b rr =>
    exact withUpdate_apply (k := fun _ t => t.advance 2) rr _ h fun _ t _ => advance_apply p t 2
  | ldAInd r => exact loadFrom_apply (s.pointer r) 1 h
  | ldADir rr => exact loadFrom_apply rr 2 h
  | addInd r => exact addFrom_apply (s.pointer r) 1 h
  | addDir rr => exact addFrom_apply rr 2 h
  | slaA => exact addFrom_apply accAddress 2 h
  | subInd r => exact subFrom_apply (s.pointer r) 1 h
  | subDir rr => exact subFrom_apply rr 2 h
  | clrA => exact subFrom_apply accAddress 2 h
  | cpInd r => exact compareFrom_apply (s.pointer r) 1 h
  | cpDir rr => exact compareFrom_apply rr 2 h
  | andInd r => exact andFrom_apply (s.pointer r) 1 h
  | andDir rr => exact andFrom_apply rr 2 h
  | ldIndA r => exact storeA_apply (s.pointer r) 1 h
  | ldDirA rr => exact storeA_apply rr 2 h
  | ldiDir rr nn => exact storeImmediate_apply rr nn 3 h
  | clrDir rr => exact storeImmediate_apply rr 0 3 h
  | incInd r => exact increment_apply (s.pointer r) 1 h
  | incDir rr => exact increment_apply rr 2 h
  | incA => exact increment_apply accAddress 2 h
  | decInd r => exact decrement_apply (s.pointer r) 1 h
  | decDir rr => exact decrement_apply rr 2 h
  | decA => exact decrement_apply accAddress 2 h
  | ldiA nn | addi nn | subi nn | andi nn | cpi nn =>
    simp [exec, execLdiA, execAddi, execSubi, execAndi, execCpi, mapNext, h]
  | ldAReg r | ldRegA r | incReg r | decReg r =>
    simp [exec, execLdAReg, execLdRegA, execIncReg, execDecReg, mapNext, h]
  | com | rlc =>
    simp only [exec, execCom, execRlc, apply_a, apply_flags h, setA_setFlags_apply _ _ h, advance_apply,
      mapNext]

/-- What an instruction does not see it does not change: a patch that it does not see and that leaves its
first state as it is leaves its next state as it is. -/
theorem fixes_next {p : Patch} {i : Instr} {s t : State} (hfix : p.apply s = s)
    (h : p.KeepsPair s.mode) (hs : usesStack i = true → p.KeepsStack) (hexec : exec i s = .next t) :
    p.apply t = t := by
  have hcomm := exec_apply p i s h hs
  rw [hfix, hexec] at hcomm
  injection hcomm with ht
  exact ht.symm

end Patch

end Sys2Proof.Machine

open Sys2Proof Sys2Proof.Machine

/-- Settles O46: the patch that puts `f` into a pair the mode does not select leaves the pair in use and the
stack alone, so no instruction sees it. -/
theorem unusedFlagPairsAreInvisible : Obligations.UnusedFlagPairsAreInvisible := by
  have unseen (m : Mode) (i : Instr) (s : State) (f : FlagPair) (hm : s.mode ≠ m) :=
    Patch.exec_apply (.setPair m f) i s (Patch.setPair_keepsPair f hm)
      fun _ => Patch.setPair_keepsStack m f
  exact fun i s f => ⟨unseen .normal i s f, unseen .int i s f, unseen .nmi i s f⟩

/-- Settles O45: putting the old contents back into a pair the mode does not select leaves the first state
as it is, and so the next state. -/
theorem otherFlagPairsAreKept : Obligations.OtherFlagPairsAreKept := by
  intro i s t hexec
  have kept (m : Mode) (f : FlagPair) (hfix : (Patch.setPair m f).apply s = s) (hm : s.mode ≠ m) :
      (Patch.setPair m f).apply t = t :=
    Patch.fixes_next hfix (Patch.setPair_keepsPair f hm) (fun _ => Patch.setPair_keepsStack m f) hexec
  exact ⟨fun hm => (congrArg State.normalFlags (kept .normal s.normalFlags rfl hm)).symm,
    fun hm => (congrArg State.intFlags (kept .int s.intFlags rfl hm)).symm,
    fun hm => (congrArg State.nmiFlags (kept .nmi s.nmiFlags rfl hm)).symm⟩

/-- Settles O47: putting the old stack back leaves the first state as it is, and so the next state of an
instruction that does not use the stack. -/
theorem onlyCallsAndReturnsTouchTheStack : Obligations.OnlyCallsAndReturnsTouchTheStack := by
  intro i s t hexec hcall hret hreti
  have hs (hu : usesStack i = true) : (Patch.setStack s.sp s.stk).KeepsStack := by
    obtain ⟨abc, hi⟩ | hi | hi := usesStack_cases hu
    · exact absurd hi (hcall abc)
    · exact absurd hi hret
    · exact absurd hi hreti
  have kept : (Patch.setStack s.sp s.stk).apply t = t :=
    Patch.fixes_next rfl (Patch.setStack_keepsPair s.sp s.stk s.mode) hs hexec
  exact ⟨(congrArg State.sp kept).symm, (congrArg State.stk kept).symm⟩

/-- Settles O13, from the cases of a push. -/
theorem pushFillsTheNextLevel : Obligations.PushFillsTheNextLevel := by
  refine ⟨fun s v hcan => ?_, fun s v hcan => push_error_of_not_canPush v hcan, rfl⟩
  obtain ⟨t, hpush⟩ := push_ok_of_canPush v hcan
  exact ⟨t, hpush, push_pushed hpush, push_ok hpush⟩

/-- Settles O14, from the two cases of a pop. -/
theorem popTakesTheTopLevel : Obligations.PopTakesTheTopLevel := by
  refine ⟨fun s hpos => ⟨_, pop_of_sp_pos hpos, rfl, rfl⟩, fun s h0 => ⟨pop_of_sp_zero h0, ?_⟩⟩
  rw [popPc_of_sp_zero h0, State.advance_eq]
end

section
/-! SUPPORT. Data space said as the statements say it: where a read and a write go, what a read after a
write answers, and which data-space accesses an instruction makes. -/

namespace Sys2Proof.Machine

/-! ### Core locations and platform locations (20_memory R61, R62) -/

theorem coreReg_eq_none_iff (ea : Byte) :
    coreReg ea = none ↔ ea ∉ ([0xFF, 0x80, 0x81, 0x82, 0x83] : List Byte) := by
  unfold coreReg
  split_ifs <;> simp_all

theorem coreReg_isSome_of_mem {ea : Byte} (h : ea ∈ ([0xFF, 0x80, 0x81, 0x82, 0x83] : List Byte)) :
    (coreReg ea).isSome = true := by
  rw [Option.isSome_iff_ne_none, Ne, coreReg_eq_none_iff]
  exact not_not_intro h

theorem dataRead_of_core {ea : Byte} {r : CoreReg} (s : State) (h : coreReg ea = some r) :
    dataRead ea s = .ok (s.coreByte r, s) := by
  simp [dataRead, readable, dataByte, afterRead, h]

theorem dataRead_of_present {s : State} {ea : Byte} (hc : coreReg ea = none) (hk : s.kind ea ≠ .absent) :
    dataRead ea s = .ok (platformByte s ea,
      { s with draws := s.draws + 1, bus := .read ea (platformByte s ea) :: s.bus }) := by
  simp [dataRead, readable, dataByte, afterRead, hc, hk]

theorem dataRead_of_absent {s : State} {ea : Byte} (hc : coreReg ea = none) (hk : s.kind ea = .absent) :
    dataRead ea s = .error (.dataNotImplemented ea) := by
  simp [dataRead, readable, hc, hk]

theorem writable_of_core {ea : Byte} (s : State) (h : (coreReg ea).isSome = true) :
    writable s ea = true := by
  simp [writable, h]

theorem writable_iff_of_platform {ea : Byte} (s : State) (hc : coreReg ea = none) :
    writable s ea = true ↔ s.kind ea ≠ .absent ∧ s.kind ea ≠ .romWindow := by
  simp [writable, hc]

theorem dataWrite_of_romWindow {s : State} {ea : Byte} (b : Byte) (hc : coreReg ea = none)
    (hk : s.kind ea = .romWindow) : dataWrite ea b s = .error (.romWrite ea) := by
  simp [dataWrite, writable, hc, hk]

theorem dataWrite_of_absent {s : State} {ea : Byte} (b : Byte) (hc : coreReg ea = none)
    (hk : s.kind ea = .absent) : dataWrite ea b s = .error (.dataNotImplemented ea) := by
  simp [dataWrite, writable, hc, hk]

/-! ### The data RAM banking register (20_memory R64) -/

theorem State.kind_of_lt {ea : Byte} (s : State) (h : ea.toNat < 0x40) :
    s.kind ea = kindOf (s.cfg.pageMaps.getD (dataPage s) s.cfg.dataMap) ea := if_pos h

theorem State.kind_of_le {ea : Byte} (s : State) (h : 0x40 ≤ ea.toNat) :
    s.kind ea = kindOf s.cfg.dataMap ea := if_neg (Nat.not_lt.mpr h)

theorem State.kind_ne_pagedRam {s : State} {ea : Byte} (hcfg : s.cfg.wf = true) (h : 0x40 ≤ ea.toNat) :
    s.kind ea ≠ .pagedRam := by
  simp only [Config.wf, Bool.and_eq_true] at hcfg
  obtain ⟨⟨hmap, _⟩, _⟩ := hcfg
  rw [s.kind_of_le h]
  exact kindOf_ne_pagedRam hmap h

section
variable {s : State} {ea : Byte} (v : Byte) (h : 0x40 ≤ ea.toNat)
include h

theorem kind_setRamBank : { s with ramBank := v }.kind ea = s.kind ea := by
  rw [State.kind_of_le _ h, State.kind_of_le _ h]

theorem readable_setRamBank : readable { s with ramBank := v } ea = readable s ea := by
  rw [readable, readable, kind_setRamBank v h]

theorem writable_setRamBank : writable { s with ramBank := v } ea = writable s ea := by
  rw [writable, writable, kind_setRamBank v h]

/-- Only a paged byte has a key that depends on the register, and there is none from 40h on. -/
theorem platformByte_setRamBank (hcfg : s.cfg.wf = true) :
    platformByte { s with ramBank := v } ea = platformByte s ea := by
  unfold platformByte
  rw [kind_setRamBank v h]
  cases hk : s.kind ea with
  | pagedRam => exact absurd hk (State.kind_ne_pagedRam hcfg h)
  | ram => simp only [dataKey, kind_setRamBank v h, hk]
  | _ => rfl

theorem dataByte_setRamBank (hcfg : s.cfg.wf = true) :
    dataByte { s with ramBank := v } ea = dataByte s ea := by
  unfold dataByte
  cases coreReg ea with
  | none => exact platformByte_setRamBank v h hcfg
  | some r => cases r <;> rfl

end

/-! ### A read after a write (20_memory R78, R80) -/

theorem inStore_iff (s : State) (ea : Byte) :
    inStore s ea = true ↔ coreReg ea = none ∧ (s.kind ea = .ram ∨ s.kind ea = .pagedRam) := by
  simp [inStore]

theorem inStore_of_pagedRam {s : State} {ea : Byte} (hc : coreReg ea = none) (hk : s.kind ea = .pagedRam) :
    inStore s ea = true := (inStore_iff s ea).mpr ⟨hc, .inr hk⟩

theorem writable_of_inStore {s : State} {ea : Byte} (h : inStore s ea = true) : writable s ea = true := by
  obtain ⟨hc, hk⟩ := (inStore_iff s ea).mp h
  rw [writable_iff_of_platform s hc]
  rcases hk with hk | hk <;> simp [hk]

theorem dataByte_of_inStore {s : State} {ea : Byte} (h : inStore s ea = true) :
    dataByte s ea = Memory.get s.data (dataKey s ea) := by
  obtain ⟨hc, hk | hk⟩ := (inStore_iff s ea).mp h <;> simp [dataByte, platformByte, hc, hk]

theorem dataByte_of_pagedRam {s : State} {ea : Byte} (hc : coreReg ea = none) (hk : s.kind ea = .pagedRam) :
    dataByte s ea = Memory.get s.data (ea.toNat + 256 * dataPage s) := by
  rw [dataByte_of_inStore (inStore_of_pagedRam hc hk), dataKey_paged hk]

@[simp] theorem State.coreByte_setCore (s : State) (r : CoreReg) (b : Byte) :
    (s.setCore r b).coreByte r = b := by
  cases r with
  | acc => rfl
  | short r => cases r <;> rfl

theorem dataByte_afterWrite_of_core {ea : Byte} (s : State) (b : Byte) (h : (coreReg ea).isSome = true) :
    dataByte (afterWrite s ea b) ea = b := by
  obtain ⟨r, hr⟩ := Option.isSome_iff_exists.mp h
  simp [dataByte, afterWrite, hr]

/-- A write to a plain byte changes no kind of location. -/
theorem inStore_afterWrite {s : State} {ea : Byte} (b : Byte) (h : inStore s ea = true) :
    inStore (afterWrite s ea b) ea = true := by
  rw [afterWrite_of_inStore b h]
  exact h

/-- A write to a plain byte leaves every key in place, so the byte read is the one put there. -/
theorem dataByte_afterWrite_of_inStore {s : State} {ea : Byte} (b : Byte) (h : inStore s ea = true) :
    dataByte (afterWrite s ea b) ea = b := by
  rw [dataByte_of_inStore (inStore_afterWrite b h), afterWrite_of_inStore b h]
  exact Memory.get_put_same s.data (dataKey s ea) b

/-- The two kinds of location that keep what is written answer the byte written. -/
theorem dataRead_afterWrite {s : State} {ea : Byte} (b : Byte)
    (h : (coreReg ea).isSome = true ∨ inStore s ea = true) :
    dataRead ea (afterWrite s ea b) = .ok (b, afterRead (afterWrite s ea b) ea) := by
  rcases h with hc | hs
  · rw [dataRead_ok (writable_readable (writable_of_core _ hc)), dataByte_afterWrite_of_core s b hc]
  · rw [dataRead_ok (writable_readable (writable_of_inStore (inStore_afterWrite b hs))),
      dataByte_afterWrite_of_inStore b hs]

/-- The keys of two pages are apart, an address being less than 256. -/
theorem pageKey_ne (ea ea' : Byte) {p q : Nat} (h : p ≠ q) :
    ea.toNat + 256 * p ≠ ea'.toNat + 256 * q := by
  have := ea.isLt
  have := ea'.isLt
  omega

/-- A write under one page leaves what a paged byte reads under another. -/
theorem dataByte_afterWrite_of_other_page {s : State} {ea ea' v : Byte} (b : Byte)
    (hc : coreReg ea = none) (hk : s.kind ea = .pagedRam)
    (hpage : dataPage { s with ramBank := v } ≠ dataPage s)
    (hc' : coreReg ea' = none) (hk' : { s with ramBank := v }.kind ea' = .pagedRam) :
    dataByte { afterWrite s ea b with ramBank := v } ea' = dataByte { s with ramBank := v } ea' := by
  have hput := afterWrite_of_inStore b (inStore_of_pagedRam hc hk)
  rw [dataKey_paged hk] at hput
  calc dataByte { afterWrite s ea b with ramBank := v } ea'
    _ = Memory.get (afterWrite s ea b).data (ea'.toNat + 256 * dataPage { s with ramBank := v }) := by
      rw [hput]
      exact dataByte_of_pagedRam hc' hk'
    _ = Memory.get s.data (ea'.toNat + 256 * dataPage { s with ramBank := v }) := by
      rw [hput]
      exact Memory.get_put_other s.data b (pageKey_ne ea' ea hpage)
    _ = dataByte { s with ramBank := v } ea' := (dataByte_of_pagedRam hc' hk').symm

/-! ### What lies beyond the core -/

/-- Beyond the core, `t` is `u` with the calls `calls` made: same data store and control registers, same
program space and parameters. -/
def SamePlatform (calls : List BusEvent) (u t : State) : Prop :=
  SameData u t ∧ t.prog = u.prog ∧ t.cfg = u.cfg ∧ Called u t calls 0

@[simp] theorem SamePlatform.refl (u : State) : SamePlatform [] u u :=
  ⟨⟨fun _ => rfl, rfl, rfl, rfl, rfl⟩, rfl, rfl, rfl, rfl⟩

theorem Called.trans {s u t : State} {calls calls' : List BusEvent} {reads : Nat}
    (h : Called s u calls reads) (h' : Called u t calls' 0) : Called s t (calls' ++ calls) reads := by
  obtain ⟨hbus, hdraws⟩ := h
  obtain ⟨hbus', hdraws'⟩ := h'
  exact ⟨by rw [hbus', hbus, List.append_assoc], by rw [hdraws', hdraws]; rfl⟩

theorem SameData.trans {s u t : State} (h : SameData s u) (h' : SameData u t) : SameData s t := by
  obtain ⟨hdata, hram, hwin, hprog, hirq⟩ := h
  obtain ⟨hdata', hram', hwin', hprog', hirq'⟩ := h'
  exact ⟨fun k => (hdata' k).trans (hdata k), hram'.trans hram, hwin'.trans hwin, hprog'.trans hprog,
    hirq'.trans hirq⟩

/-- What is stored stays stored where the registers and data space stay. -/
theorem Stored.trans {s u t : State} {ea b : Byte} (h : Stored s u ea b) (hregs : SameRegs u t)
    (hdata : SameData u t) : Stored s t ea b := by
  obtain ⟨ha, hx, hy, hv, hw⟩ := hregs
  obtain ⟨hget, hram, hwin, hprog, hirq⟩ := hdata
  unfold Stored at h ⊢
  rw [ha, hx, hy, hv, hw, hram, hwin, hprog, hirq]
  simpa only [hget] using h

/-! Registers, flags, program counter, stack and mode are the core's own. -/

section
variable {calls : List BusEvent} {u t : State}

@[simp] theorem samePlatform_setA (b : Byte) :
    SamePlatform calls u (t.setA b) ↔ SamePlatform calls u t := Iff.rfl

@[simp] theorem samePlatform_setPc (a : Addr) :
    SamePlatform calls u (t.setPc a) ↔ SamePlatform calls u t := Iff.rfl

@[simp] theorem samePlatform_advance (len : Nat) :
    SamePlatform calls u (t.advance len) ↔ SamePlatform calls u t := Iff.rfl

@[simp] theorem samePlatform_setReg (r : ShortReg) (b : Byte) :
    SamePlatform calls u (t.setReg r b) ↔ SamePlatform calls u t := by cases r <;> rfl

@[simp] theorem samePlatform_setFlags (f : FlagPair) :
    SamePlatform calls u (t.setFlags f) ↔ SamePlatform calls u t := by
  unfold State.setFlags
  cases t.mode <;> rfl

@[simp] theorem samePlatform_setZ (b : Bool) :
    SamePlatform calls u (t.setZ b) ↔ SamePlatform calls u t := samePlatform_setFlags _

@[simp] theorem samePlatform_setC (b : Bool) :
    SamePlatform calls u (t.setC b) ↔ SamePlatform calls u t := samePlatform_setFlags _

@[simp] theorem samePlatform_loadA (v : Byte) :
    SamePlatform calls u (loadA v t) ↔ SamePlatform calls u t := samePlatform_setZ _

@[simp] theorem samePlatform_addA (v : Byte) :
    SamePlatform calls u (addA v t) ↔ SamePlatform calls u t := samePlatform_setFlags _

@[simp] theorem samePlatform_subA (v : Byte) :
    SamePlatform calls u (subA v t) ↔ SamePlatform calls u t := samePlatform_setFlags _

@[simp] theorem samePlatform_compareA (v : Byte) :
    SamePlatform calls u (compareA v t) ↔ SamePlatform calls u t := samePlatform_setFlags _

@[simp] theorem samePlatform_andA (v : Byte) :
    SamePlatform calls u (andA v t) ↔ SamePlatform calls u t := samePlatform_loadA _

@[simp] theorem samePlatform_popPc : SamePlatform calls u (popPc t) ↔ SamePlatform calls u t := by
  rw [popPc_eq]
  rfl

@[simp] theorem samePlatform_returnFromInterrupt :
    SamePlatform calls u (returnFromInterrupt t) ↔ SamePlatform calls u t := samePlatform_popPc

theorem push_samePlatform {v : Addr} (h : push v u = .ok t) : SamePlatform [] u t := by
  rw [push_ok h]
  exact SamePlatform.refl u

@[simp] theorem sameRegs_refl (u : State) : SameRegs u u := ⟨rfl, rfl, rfl, rfl, rfl⟩

@[simp] theorem sameRegs_advance (len : Nat) : SameRegs u (t.advance len) ↔ SameRegs u t := Iff.rfl

@[simp] theorem sameRegs_setZ (b : Bool) : SameRegs u (t.setZ b) ↔ SameRegs u t := by
  simp [SameRegs, SameShort]

end

/-! ### The accesses of an instruction (20_memory R76, R77) -/

/-- The notice that STOP and WAIT give the platform. -/
def haltCalls (i : Instr) : List BusEvent :=
  if i = .stop then [.haltStop] else if i = .wait then [.haltWait] else []

/-- The state after the read that the table of R76 gives instruction `i`. -/
def afterReads (i : Instr) (s : State) : State :=
  match readAddress i s with
  | some ea => afterRead s ea
  | none => s

theorem afterReads_of_some {i : Instr} {s : State} {ea : Byte} (h : readAddress i s = some ea) :
    afterReads i s = afterRead s ea := by
  simp only [afterReads, h]

theorem afterReads_of_none {i : Instr} {s : State} (h : readAddress i s = none) : afterReads i s = s := by
  simp only [afterReads, h]

/-- A read counts a draw and is listed on the bus, and changes nothing else. -/
theorem afterRead_eq (s : State) (ea : Byte) :
    afterRead s ea = { s with draws := (afterRead s ea).draws, bus := (afterRead s ea).bus } := by
  unfold afterRead
  cases coreReg ea <;> rfl

/-- The same of the read of an instruction, if it has one. -/
theorem afterReads_eq (i : Instr) (s : State) :
    afterReads i s = { s with draws := (afterReads i s).draws, bus := (afterReads i s).bus } := by
  cases hr : readAddress i s with
  | none => rw [afterReads_of_none hr]
  | some ea => rw [afterReads_of_some hr]; exact afterRead_eq s ea

theorem afterReads_called (i : Instr) (s : State) :
    Called s (afterReads i s)
      (match readAddress i s with | some ea => readCalls s ea | none => [])
      (match readAddress i s with | some ea => (readCalls s ea).length | none => 0) := by
  cases hr : readAddress i s with
  | none => rw [afterReads_of_none hr]; exact ⟨rfl, rfl⟩
  | some ea => rw [afterReads_of_some hr]; exact afterRead_called s ea

/-- A write after the read stores as it does in the first state. -/
theorem afterWrite_afterReads_stored (i : Instr) (s : State) (ea b : Byte) :
    Stored s (afterWrite (afterReads i s) ea b) ea b := by
  have h := afterWrite_stored (afterReads i s) ea b
  rw [afterReads_eq] at h ⊢
  exact h

theorem afterWrite_afterReads_called (i : Instr) (s : State) (ea b : Byte) :
    Called (afterReads i s) (afterWrite (afterReads i s) ea b) (writeCalls ea b) 0 :=
  ⟨afterWrite_called _ ea b, afterWrite_draws _ ea b⟩

/-- What an instruction that leads from `s` to `t` does in data space: the read of its read address, then
the write of its write address, and beyond the core nothing else but the notice of STOP and WAIT. -/
inductive Accesses (i : Instr) (s t : State) : Prop
  | noWrite (hw : writeAddress i s = none) (same : SamePlatform (haltCalls i) (afterReads i s) t)
  | write (ea b : Byte) (hw : writeAddress i s = some ea) (hok : writable s ea = true)
      (same : SamePlatform (haltCalls i) (afterWrite (afterReads i s) ea b) t)
      (regs : SameRegs (afterWrite (afterReads i s) ea b) t)

namespace Accesses

section
variable {i : Instr} {s t u : State} {ea : Byte}

/-! One lemma for each shape of instruction. -/

theorem of_next (h : (.next u : Outcome) = .next t) (hr : readAddress i s = none)
    (hw : writeAddress i s = none) (hk : SamePlatform (haltCalls i) s u) : Accesses i s t := by
  cases h
  refine .noWrite hw ?_
  rwa [afterReads_of_none hr]

theorem of_withSource {k : Byte → State → State} (h : withSource ea s k = .next t)
    (hr : readAddress i s = some ea) (hw : writeAddress i s = none) (hi : haltCalls i = [])
    (hk : ∀ v u, SamePlatform [] u (k v u)) : Accesses i s t := by
  obtain ⟨_, rfl⟩ := withSource_next h
  refine .noWrite hw ?_
  rw [afterReads_of_some hr, hi]
  exact hk _ _

theorem of_withStore {b : Byte} {k : State → State} (h : withStore ea b s k = .next t)
    (hr : readAddress i s = none) (hw : writeAddress i s = some ea) (hi : haltCalls i = [])
    (hk : ∀ u, SamePlatform [] u (k u) ∧ SameRegs u (k u)) : Accesses i s t := by
  obtain ⟨hok, rfl⟩ := withStore_next h
  obtain ⟨same, regs⟩ := hk (afterWrite s ea b)
  refine .write ea b hw hok ?_ ?_ <;> rw [afterReads_of_none hr]
  · rwa [hi]
  · exact regs

theorem of_withUpdate {f : Byte → Byte} {k : Byte → State → State} (h : withUpdate ea s f k = .next t)
    (hr : readAddress i s = some ea) (hw : writeAddress i s = some ea) (hi : haltCalls i = [])
    (hk : ∀ v u, SamePlatform [] u (k v u) ∧ SameRegs u (k v u)) : Accesses i s t := by
  obtain ⟨hok, rfl⟩ := withUpdate_next h
  obtain ⟨same, regs⟩ := hk (f (dataByte s ea)) (afterWrite (afterRead s ea) ea (f (dataByte s ea)))
  refine .write ea (f (dataByte s ea)) hw hok ?_ ?_ <;> rw [afterReads_of_some hr]
  · rwa [hi]
  · exact regs

/-- CALL touches the stack and the program counter only. -/
theorem of_call {abc : Addr} (h : execCall abc s = .next t) : Accesses (.call abc) s t := by
  unfold execCall at h
  cases hp : push (s.pc + 2) s with
  | error f => rw [hp] at h; cases h
  | ok u =>
    rw [hp] at h
    exact of_next h rfl rfl ((samePlatform_setPc abc).mpr (push_samePlatform hp))

end

/-- Every instruction that completes makes the accesses of the table. The cases are grouped by the shape of
the instruction: no data-space access, a flag branch, one read, one write, or a read and a write. -/
theorem of_exec {i : Instr} {s t : State} (h : exec i s = .next t) : Accesses i s t := by
  cases i with
  | illegal _ => cases h
  | call _ => exact of_call h
  | stop | wait => exact of_next h rfl rfl ⟨⟨fun _ => rfl, rfl, rfl, rfl, rfl⟩, rfl, rfl, rfl, rfl⟩
  | nop | jp _ | ret | reti | com | rlc | ldiA _ | addi _ | subi _ | andi _ | cpi _
  | ldAReg _ | ldRegA _ | incReg _ | decReg _ =>
    exact of_next h rfl rfl (by simp [haltCalls])
  | jrnz _ | jrnc _ | jrz _ | jrc _ =>
    exact of_next h rfl rfl (by split <;> simp [haltCalls])
  | ldAInd _ | ldADir _ | addInd _ | addDir _ | slaA | subInd _ | subDir _ | clrA
  | cpInd _ | cpDir _ | andInd _ | andDir _ =>
    simp only [exec, execLdAInd, execLdADir, execAddInd, execAddDir, execSlaA, execSubInd, execSubDir,
      execClrA, execCpInd, execCpDir, execAndInd, execAndDir, loadFrom, addFrom, subFrom, compareFrom,
      andFrom] at h
    exact of_withSource h rfl rfl rfl fun v u => by simp
  | jrr _ _ _ | jrs _ _ _ =>
    exact of_withSource h rfl rfl rfl fun v u => by dsimp only; split <;> simp
  | ldIndA _ | ldDirA _ | ldiDir _ _ | clrDir _ =>
    exact of_withStore h rfl rfl rfl fun u => by simp
  | incInd _ | incDir _ | incA | decInd _ | decDir _ | decA | resBit _ _ | setBit _ _ =>
    simp only [exec, execIncInd, execIncDir, execIncA, execDecInd, execDecDir, execDecA, execResBit,
      execSetBit, increment, decrement] at h
    exact of_withUpdate h rfl rfl rfl fun v u => by simp

end Accesses

/-- An instruction leaves program space and the device's parameters as they are. -/
theorem exec_keeps_prog_cfg {i : Instr} {s t : State} (h : exec i s = .next t) :
    t.prog = s.prog ∧ t.cfg = s.cfg := by
  cases Accesses.of_exec h with
  | noWrite _ same =>
    obtain ⟨_, hprog, hcfg, _⟩ := same
    rw [hprog, hcfg, afterReads_eq]
    exact ⟨rfl, rfl⟩
  | write ea b _ _ same _ =>
    obtain ⟨_, hprog, hcfg, _⟩ := same
    rw [hprog, hcfg, afterWrite_prog, afterWrite_cfg, afterReads_eq]
    exact ⟨rfl, rfl⟩

/-- So does an interrupt entry. -/
theorem enterInterrupt_keeps_prog_cfg {n : Source} {s t : State} (h : enterInterrupt n s = .next t) :
    t.prog = s.prog ∧ t.cfg = s.cfg := by
  obtain ⟨u, hp, rfl⟩ := enterInterrupt_next h
  obtain ⟨_, hprog, hcfg, _⟩ := push_samePlatform hp
  simp [hprog, hcfg]

end Sys2Proof.Machine

open Sys2Proof Sys2Proof.Machine

/-- Settles O7, from where a read goes and from what the banking register selects. -/
theorem dataReadRouting : Obligations.DataReadRouting := by
  refine ⟨fun s => ?core, fun s ea hne hk => ?present, fun s ea hne hk => ?absent, fun s ea h => ?low,
    fun s ea v hcfg h => ?high⟩
  case core =>
    exact ⟨dataRead_of_core (r := .acc) s rfl, dataRead_of_core (r := .short .x) s rfl,
      dataRead_of_core (r := .short .y) s rfl, dataRead_of_core (r := .short .v) s rfl,
      dataRead_of_core (r := .short .w) s rfl⟩
  case present => exact dataRead_of_present ((coreReg_eq_none_iff ea).mpr hne) hk
  case absent => exact dataRead_of_absent ((coreReg_eq_none_iff ea).mpr hne) hk
  case low => exact s.kind_of_lt h
  case high => exact ⟨dataByte_setRamBank v h hcfg, readable_setRamBank v h, writable_setRamBank v h⟩

/-- Settles O8, from what an answered write leaves and from where a write is answered. -/
theorem dataWriteRouting : Obligations.DataWriteRouting := by
  refine ⟨fun s ea b h => ?answered, fun s ea hmem => ?core, fun s ea hne => ?platform,
    fun s ea b hne hk => ?window, fun s ea b hne hk => ?absent⟩
  case answered =>
    exact ⟨afterWrite s ea b, dataWrite_ok b h, afterWrite_stored s ea b, by simp [SameFlags], by simp,
      by simp [SameRest, SameStack, SameMode, SameOutside], afterWrite_called s ea b,
      afterWrite_draws s ea b⟩
  case core => exact writable_of_core s (coreReg_isSome_of_mem hmem)
  case platform => exact writable_iff_of_platform s ((coreReg_eq_none_iff ea).mpr hne)
  case window => exact dataWrite_of_romWindow b ((coreReg_eq_none_iff ea).mpr hne) hk
  case absent => exact dataWrite_of_absent b ((coreReg_eq_none_iff ea).mpr hne) hk

/-- Settles O9: a write answers with the byte under the location's key, and the keys of two pages are
apart. -/
theorem readAfterWriteReturnsTheByte : Obligations.ReadAfterWriteReturnsTheByte := by
  refine ⟨fun s ea b h => ?same, fun s ea hc hk => dataByte_of_pagedRam hc hk, fun s ea b hc hk => ?page⟩
  case same =>
    have hw : writable s ea = true := h.elim (writable_of_core s) writable_of_inStore
    exact ⟨afterWrite s ea b, _, dataWrite_ok b hw, dataRead_afterWrite b h⟩
  case page =>
    refine ⟨afterWrite s ea b, dataWrite_ok b (writable_of_inStore (inStore_of_pagedRam hc hk)), ?_⟩
    exact fun v ea' hpage hc' hk' => dataByte_afterWrite_of_other_page b hc hk hpage hc' hk'

/-- Settles O42: the calls of the accesses, in order. -/
theorem accessesFollowTheTable : Obligations.AccessesFollowTheTable := by
  intro i s t hexec
  cases Accesses.of_exec hexec with
  | noWrite hw same =>
    obtain ⟨_, _, _, hcalled⟩ := same
    refine ⟨0, ?_⟩
    rw [hw, List.append_nil]
    exact (afterReads_called i s).trans hcalled
  | write ea b hw _ same _ =>
    obtain ⟨_, _, _, hcalled⟩ := same
    refine ⟨b, ?_⟩
    rw [hw, List.append_assoc]
    exact ((afterReads_called i s).trans (afterWrite_afterReads_called i s ea b)).trans hcalled

/-- Settles O43: after the one write, if there is one, data space stays. -/
theorem storesOnlyAtTheWriteAddress : Obligations.StoresOnlyAtTheWriteAddress := by
  intro i s t hexec
  cases Accesses.of_exec hexec with
  | noWrite hw same =>
    obtain ⟨hdata, _, _, _⟩ := same
    rw [afterReads_eq] at hdata
    refine ⟨fun _ => hdata, fun ea hea => ?_⟩
    rw [hw] at hea
    cases hea
  | write ea b hw hok same regs =>
    obtain ⟨hdata, _, _, _⟩ := same
    rw [hw]
    refine ⟨fun h => (by cases h), fun ea' hea => ?_⟩
    cases hea
    exact ⟨hok, b, (afterWrite_afterReads_stored i s ea b).trans regs hdata⟩

/-- Settles O48: none of the four things a step does touches program space or the parameters, nor does the
platform's turn before it. -/
theorem noStepWritesProgramSpace : Obligations.NoStepWritesProgramSpace := by
  intro s t hstep
  rw [← sample_prog s, ← sample_cfg s]
  rcases step_cases s with ⟨_, e⟩ | ⟨n, _, e⟩ | ⟨i, _, _, e⟩ | ⟨f, _, _, e⟩ | ⟨_, e⟩ <;> rw [e] at hstep
  case inl => cases hstep; exact ⟨resetEvent_prog _, resetEvent_cfg _⟩
  case inr.inl => exact enterInterrupt_keeps_prog_cfg hstep
  case inr.inr.inl => exact exec_keeps_prog_cfg hstep
  case inr.inr.inr.inl => cases hstep
  case inr.inr.inr.inr => cases hstep; exact ⟨rfl, rfl⟩
end

section
/-! SUPPORT. Decoding and encoding undo each other (30_encoding R100 to R118): what the decoder answers in each
column of the opcode map, what it answers on the encoder's bytes, and what the encoder writes for its answers. -/

namespace Sys2Proof

/-! ### The fields of an opcode byte, read and written -/

theorem pcrField_encodePcr : ∀ (e : BitVec 5) (cc : BitVec 2), pcrField (encodePcr e cc) = e := by decide

theorem encodePcr_toNat_mod : ∀ (e : BitVec 5) (cc : BitVec 2), (encodePcr e cc).toNat % 8 = 2 * cc.toNat := by
  decide

theorem encodePcr_pcrField {op : Byte} (cc : BitVec 2) (h : op.toNat % 8 = 2 * cc.toNat) :
    encodePcr (pcrField op) cc = op := by
  revert op cc; decide

theorem append_toNat_mod (hi : BitVec 3) (low : BitVec 5) : (hi ++ low).toNat % 32 = low.toNat := by
  revert hi low; decide

/-- An opcode byte is a row number op[7:5] and a column op[4:0] of the opcode map (R101). -/
theorem exists_row {op : Byte} (low : BitVec 5) (h : op.toNat % 32 = low.toNat) :
    ∃ hi : BitVec 3, hi ++ low = op := by
  have hlow : op.extractLsb' 0 5 = low := BitVec.eq_of_toNat_eq (by simpa using h)
  subst hlow
  exact ⟨op.extractLsb' 5 3,
    (BitVec.extractLsb'_append_extractLsb'_eq_extractLsb' rfl).trans BitVec.extractLsb'_eq_self⟩

theorem row_cases (hi : BitVec 3) :
    hi = 0 ∨ hi = 1 ∨ hi = 2 ∨ hi = 3 ∨ hi = 4 ∨ hi = 5 ∨ hi = 6 ∨ hi = 7 := by
  revert hi; decide

theorem bitNumber_bitField (b : Fin 8) (low : BitVec 5) : bitNumber (bitField b ++ low) = b := by
  revert b low; decide

theorem bitField_bitNumber {op : Byte} (low : BitVec 5) (h : op.toNat % 32 = low.toNat) :
    bitField (bitNumber op) ++ low = op := by
  obtain ⟨hi, rfl⟩ := exists_row low h
  revert hi low; decide

theorem encodeExt_toNat_mod (c : BitVec 4) (t : BitVec 1) :
    (c ++ t ++ 0b001#3).toNat % 16 = 8 * t.toNat + 1 := by
  revert c t; decide

theorem extAddress_append (c : BitVec 4) (t : BitVec 1) (ab : Byte) :
    extAddress (c ++ t ++ 0b001#3) ab = ab ++ c := by
  have hc : (c ++ t ++ 0b001#3).extractLsb' 4 4 = c := by revert c t; decide
  rw [extAddress, hc]

theorem encodeExt_append (ab : Byte) (c : BitVec 4) (t : BitVec 1) :
    encodeExt (ab ++ c) t = [c ++ t ++ 0b001#3, ab] := by
  rw [encodeExt, BitVec.extractLsb'_append_eq_right, BitVec.extractLsb'_append_eq_left]

theorem encodeExt_extAddress {op : Byte} (t : BitVec 1) (b1 : Byte) (h : op.toNat % 16 = 8 * t.toNat + 1) :
    encodeExt (extAddress op b1) t = [op, b1] := by
  have hop : op.extractLsb' 4 4 ++ t ++ 0b001#3 = op := by revert op t; decide
  rw [extAddress, encodeExt_append, hop]

theorem append_halves (abc : Addr) : abc.extractLsb' 4 8 ++ abc.extractLsb' 0 4 = abc :=
  (BitVec.extractLsb'_append_extractLsb'_eq_extractLsb' rfl).trans BitVec.extractLsb'_eq_self

/-! ### The columns of the opcode map (R101) -/

section
variable {op b1 b2 : Byte}

/-- The four low bits and bit 4 of a byte in column `k`. -/
theorem column_fields {k : Nat} (h : op.toNat % 32 = k) :
    op.toNat % 16 = k % 16 ∧ op[4] = decide (16 ≤ k) := by
  subst h
  refine ⟨by omega, ?_⟩
  revert op; decide

theorem decodeOp_jrnz (h : op.toNat % 8 = 0) : decodeOp op b1 b2 = .jrnz (pcrField op) := by
  obtain h | h : op.toNat % 16 = 0 ∨ op.toNat % 16 = 8 := by omega
  · simp [decodeOp, h]
  · simp [decodeOp, h]

theorem decodeOp_jrnc (h : op.toNat % 8 = 2) : decodeOp op b1 b2 = .jrnc (pcrField op) := by
  obtain h | h : op.toNat % 16 = 2 ∨ op.toNat % 16 = 10 := by omega
  · simp [decodeOp, h]
  · simp [decodeOp, h]

theorem decodeOp_jrz (h : op.toNat % 8 = 4) :
    decodeOp op b1 b2 = if pcrField op = 0 then .nop else .jrz (pcrField op) := by
  obtain h | h : op.toNat % 16 = 4 ∨ op.toNat % 16 = 12 := by omega
  · simp [decodeOp, h]
  · simp [decodeOp, h]

theorem decodeOp_jrc (h : op.toNat % 8 = 6) : decodeOp op b1 b2 = .jrc (pcrField op) := by
  obtain h | h : op.toNat % 16 = 6 ∨ op.toNat % 16 = 14 := by omega
  · simp [decodeOp, h]
  · simp [decodeOp, h]

theorem decodeOp_call (h : op.toNat % 16 = 1) : decodeOp op b1 b2 = .call (extAddress op b1) := by
  simp [decodeOp, h]

theorem decodeOp_jp (h : op.toNat % 16 = 9) : decodeOp op b1 b2 = .jp (extAddress op b1) := by
  simp [decodeOp, h]

theorem decodeOp_jrr (h : op.toNat % 32 = 3) : decodeOp op b1 b2 = .jrr (bitNumber op) b1 b2 := by
  simp [decodeOp, column_fields h]

theorem decodeOp_jrs (h : op.toNat % 32 = 19) : decodeOp op b1 b2 = .jrs (bitNumber op) b1 b2 := by
  simp [decodeOp, column_fields h]

theorem decodeOp_resBit (h : op.toNat % 32 = 11) : decodeOp op b1 b2 = .resBit (bitNumber op) b1 := by
  simp [decodeOp, column_fields h]

theorem decodeOp_setBit (h : op.toNat % 32 = 27) : decodeOp op b1 b2 = .setBit (bitNumber op) b1 := by
  simp [decodeOp, column_fields h]

theorem decodeOp_illegal (h : op.toNat % 32 = 5) : decodeOp op b1 b2 = .illegal op := by
  simp [decodeOp, column_fields h]

theorem decodeOp_short (h : op.toNat % 32 = 21 ∨ op.toNat % 32 = 29) :
    decodeOp op b1 b2 = decodeShort op := by
  obtain h | h := h
  · simp [decodeOp, column_fields h]
  · simp [decodeOp, column_fields h]

theorem decodeOp_inherent (h : op.toNat % 32 = 13) : decodeOp op b1 b2 = decodeInherent op b1 b2 := by
  simp [decodeOp, column_fields h]

theorem decodeOp_immediate (h : op.toNat % 32 = 23) : decodeOp op b1 b2 = decodeImmediate op b1 := by
  simp [decodeOp, column_fields h]

theorem decodeOp_direct (h : op.toNat % 32 = 31) : decodeOp op b1 b2 = decodeDirect op b1 := by
  simp [decodeOp, column_fields h]

theorem decodeOp_indirectX (h : op.toNat % 32 = 7) : decodeOp op b1 b2 = decodeIndirect op .x := by
  simp [decodeOp, column_fields h]

theorem decodeOp_indirectY (h : op.toNat % 32 = 15) : decodeOp op b1 b2 = decodeIndirect op .y := by
  simp [decodeOp, column_fields h]

end

/-! ### Decode of encode -/

/-- The decoder looks at the bytes of one instruction and at none after them. -/
theorem decode_append {op : Byte} {operands : List Byte} (rest : List Byte)
    (hlen : (op :: operands).length = max 1 (lengthOf op)) :
    decode (op :: operands ++ rest) = .ok (decodeOp op (operands.getD 0 0) (operands.getD 1 0)) := by
  have hle := lengthOf_le_three op
  match operands with
  | [] => exact decode_short _ (by simp at hlen; omega)
  | [b1] => exact decode_two b1 _ (by simp at hlen; omega)
  | [b1, b2] => exact decode_three b1 b2 _ (by simp at hlen; omega)
  | _ :: _ :: _ :: _ => simp at hlen; omega

/-- Decode of encode, reduced to the decode tree on the instruction's own bytes. -/
theorem decode_encode_of {i : Instr} {op : Byte} {operands : List Byte} (hwf : i.wellFormed = true)
    (hlen : Laws.EncodedLength.Statement i) (henc : encode i = op :: operands)
    (htree : decodeOp op (operands.getD 0 0) (operands.getD 1 0) = i) (rest : List Byte) :
    decode (encode i ++ rest) = .ok i := by
  obtain ⟨op', operands', henc', hlen'⟩ := hlen hwf
  rw [henc] at henc' hlen' ⊢
  cases henc'
  rw [decode_append rest hlen', htree]

/-- A displacement, an address or a bit number in the opcode byte is read back by the field lemmas; a register or
pointer takes few values; every other opcode byte is fixed, and well-formedness shuts out the other spelling. -/
theorem decode_encode {i : Instr} (hwf : i.wellFormed = true) (rest : List Byte) :
    decode (encode i ++ rest) = .ok i := by
  cases i with
  | jrnz e =>
    refine decode_encode_of hwf (Laws.EncodedLength.jrnz e) rfl ?_ rest
    rw [decodeOp_jrnz (encodePcr_toNat_mod e 0), pcrField_encodePcr]
  | jrnc e =>
    refine decode_encode_of hwf (Laws.EncodedLength.jrnc e) rfl ?_ rest
    rw [decodeOp_jrnc (encodePcr_toNat_mod e 1), pcrField_encodePcr]
  | jrz e =>
    refine decode_encode_of hwf (Laws.EncodedLength.jrz e) rfl ?_ rest
    rw [decodeOp_jrz (encodePcr_toNat_mod e 2), pcrField_encodePcr, if_neg (of_decide_eq_true hwf)]
  | jrc e =>
    refine decode_encode_of hwf (Laws.EncodedLength.jrc e) rfl ?_ rest
    rw [decodeOp_jrc (encodePcr_toNat_mod e 3), pcrField_encodePcr]
  | call abc =>
    refine decode_encode_of hwf (Laws.EncodedLength.call abc) rfl ?_ rest
    rw [decodeOp_call (encodeExt_toNat_mod _ 0), extAddress_append]
    exact congrArg Instr.call (append_halves abc)
  | jp abc =>
    refine decode_encode_of hwf (Laws.EncodedLength.jp abc) rfl ?_ rest
    rw [decodeOp_jp (encodeExt_toNat_mod _ 1), extAddress_append]
    exact congrArg Instr.jp (append_halves abc)
  | jrr b rr ee =>
    refine decode_encode_of hwf (Laws.EncodedLength.jrr b rr ee) rfl ?_ rest
    rw [decodeOp_jrr (append_toNat_mod _ _), bitNumber_bitField]; rfl
  | jrs b rr ee =>
    refine decode_encode_of hwf (Laws.EncodedLength.jrs b rr ee) rfl ?_ rest
    rw [decodeOp_jrs (append_toNat_mod _ _), bitNumber_bitField]; rfl
  | resBit b rr =>
    refine decode_encode_of hwf (Laws.EncodedLength.resBit b rr) rfl ?_ rest
    rw [decodeOp_resBit (append_toNat_mod _ _), bitNumber_bitField]; rfl
  | setBit b rr =>
    refine decode_encode_of hwf (Laws.EncodedLength.setBit b rr) rfl ?_ rest
    rw [decodeOp_setBit (append_toNat_mod _ _), bitNumber_bitField]; rfl
  | incReg r | ldAReg r | decReg r | ldRegA r => cases r <;> rfl
  | ldAInd p | cpInd p | addInd p | incInd p | ldIndA p | andInd p | subInd p | decInd p => cases p <;> rfl
  | ldiA | cpi | addi | andi | subi | ldADir | cpDir | ldDirA | andDir | com | reti | stop | rlc | ret | wait
  | nop | slaA | clrA | clrDir | incA | decA => rfl
  | addDir rr =>
    exact decode_encode_of hwf (Laws.EncodedLength.addDir rr) rfl (if_neg (of_decide_eq_true hwf)) rest
  | subDir rr =>
    exact decode_encode_of hwf (Laws.EncodedLength.subDir rr) rfl (if_neg (of_decide_eq_true hwf)) rest
  | incDir rr =>
    exact decode_encode_of hwf (Laws.EncodedLength.incDir rr) rfl (if_neg (of_decide_eq_true hwf)) rest
  | decDir rr =>
    exact decode_encode_of hwf (Laws.EncodedLength.decDir rr) rfl (if_neg (of_decide_eq_true hwf)) rest
  | ldiDir rr nn =>
    exact decode_encode_of hwf (Laws.EncodedLength.ldiDir rr nn) rfl (if_neg (of_decide_eq_true hwf)) rest
  | illegal op =>
    refine decode_encode_of hwf (Laws.EncodedLength.illegal op) rfl ?_ rest
    exact (by decide : ∀ o ∈ illegalOpcodes, decodeOp o 0 0 = .illegal o) op (of_decide_eq_true hwf)

theorem encode_call_append (ab : Byte) (c : BitVec 4) : encode (.call (ab ++ c)) = [c ++ 0b0001#4, ab] := by
  have hop : c ++ 0#1 ++ 0b001#3 = c ++ 0b0001#4 := by revert c; decide
  exact (encodeExt_append ab c 0).trans (congrArg (fun o => [o, ab]) hop)

theorem encode_jp_append (ab : Byte) (c : BitVec 4) : encode (.jp (ab ++ c)) = [c ++ 0b1001#4, ab] := by
  have hop : c ++ 1#1 ++ 0b001#3 = c ++ 0b1001#4 := by revert c; decide
  exact (encodeExt_append ab c 1).trans (congrArg (fun o => [o, ab]) hop)

/-! ### Encode of decode -/

/-- `i` is well formed, and its bytes are the first ones of `op`, `b1`, `b2`: as many as `op` calls for, or one
where `op` is illegal. -/
def ReadFrom (op b1 b2 : Byte) (i : Instr) : Prop :=
  i.wellFormed = true ∧ encode i = [op, b1, b2].take (max 1 (lengthOf op))

/-- Another spelling's row and the primary row it is cut out of (R128 to R132). -/
theorem ReadFrom.ite {op b1 b2 : Byte} {p : Prop} [Decidable p] {i j : Instr} (hi : p → ReadFrom op b1 b2 i)
    (hj : ¬p → ReadFrom op b1 b2 j) : ReadFrom op b1 b2 (if p then i else j) := by
  split
  · exact hi ‹_›
  · exact hj ‹_›

section
variable {op b1 b2 : Byte}

theorem readFrom_short (h : op.toNat % 32 = 21 ∨ op.toNat % 32 = 29) : ReadFrom op b1 b2 (decodeShort op) := by
  obtain ⟨hi, rfl⟩ | ⟨hi, rfl⟩ := h.imp (exists_row 21) (exists_row 29)
  · obtain rfl | rfl | rfl | rfl | rfl | rfl | rfl | rfl := row_cases hi <;> exact ⟨rfl, rfl⟩
  · obtain rfl | rfl | rfl | rfl | rfl | rfl | rfl | rfl := row_cases hi <;> exact ⟨rfl, rfl⟩

theorem readFrom_inherent (h : op.toNat % 32 = 13) : ReadFrom op b1 b2 (decodeInherent op b1 b2) := by
  obtain ⟨hi, rfl⟩ := exists_row 13 h
  obtain rfl | rfl | rfl | rfl | rfl | rfl | rfl | rfl := row_cases hi
  case inl => exact .ite (fun h0 => ⟨rfl, by rw [h0]; rfl⟩) (fun h0 => ⟨decide_eq_true h0, rfl⟩)
  all_goals exact ⟨rfl, rfl⟩

theorem readFrom_immediate (h : op.toNat % 32 = 23) : ReadFrom op b1 b2 (decodeImmediate op b1) := by
  obtain ⟨hi, rfl⟩ := exists_row 23 h
  obtain rfl | rfl | rfl | rfl | rfl | rfl | rfl | rfl := row_cases hi <;> exact ⟨rfl, rfl⟩

theorem readFrom_indirectX (h : op.toNat % 32 = 7) : ReadFrom op b1 b2 (decodeIndirect op .x) := by
  obtain ⟨hi, rfl⟩ := exists_row 7 h
  obtain rfl | rfl | rfl | rfl | rfl | rfl | rfl | rfl := row_cases hi <;> exact ⟨rfl, rfl⟩

theorem readFrom_indirectY (h : op.toNat % 32 = 15) : ReadFrom op b1 b2 (decodeIndirect op .y) := by
  obtain ⟨hi, rfl⟩ := exists_row 15 h
  obtain rfl | rfl | rfl | rfl | rfl | rfl | rfl | rfl := row_cases hi <;> exact ⟨rfl, rfl⟩

theorem readFrom_direct (h : op.toNat % 32 = 31) : ReadFrom op b1 b2 (decodeDirect op b1) := by
  obtain ⟨hi, rfl⟩ := exists_row 31 h
  obtain rfl | rfl | rfl | rfl | rfl | rfl | rfl | rfl := row_cases hi
  · exact ⟨rfl, rfl⟩
  · exact ⟨rfl, rfl⟩
  · exact .ite (fun hFF => ⟨rfl, by rw [hFF]; rfl⟩) (fun hne => ⟨decide_eq_true hne, rfl⟩)
  · exact .ite (fun hFF => ⟨rfl, by rw [hFF]; rfl⟩) (fun hne => ⟨decide_eq_true hne, rfl⟩)
  · exact ⟨rfl, rfl⟩
  · exact ⟨rfl, rfl⟩
  · exact .ite (fun hFF => ⟨rfl, by rw [hFF]; rfl⟩) (fun hne => ⟨decide_eq_true hne, rfl⟩)
  · exact .ite (fun hFF => ⟨rfl, by rw [hFF]; rfl⟩) (fun hne => ⟨decide_eq_true hne, rfl⟩)

theorem readFrom_illegal (h : op.toNat % 32 = 5) : ReadFrom op b1 b2 (.illegal op) := by
  obtain ⟨hi, rfl⟩ := exists_row 5 h
  obtain rfl | rfl | rfl | rfl | rfl | rfl | rfl | rfl := row_cases hi <;> exact ⟨rfl, rfl⟩

theorem ReadFrom.one {i : Instr} (hlen : lengthOf op = 1) (hwf : i.wellFormed = true) (henc : encode i = [op]) :
    ReadFrom op b1 b2 i :=
  ⟨hwf, by rw [henc, hlen]; rfl⟩

theorem ReadFrom.two {i : Instr} (hlen : lengthOf op = 2) (hwf : i.wellFormed = true)
    (henc : encode i = [op, b1]) : ReadFrom op b1 b2 i :=
  ⟨hwf, by rw [henc, hlen]; rfl⟩

theorem ReadFrom.three {i : Instr} (hlen : lengthOf op = 3) (hwf : i.wellFormed = true)
    (henc : encode i = [op, b1, b2]) : ReadFrom op b1 b2 i :=
  ⟨hwf, by rw [henc, hlen]; rfl⟩

theorem lengthOf_of_even (h : op.toNat % 2 = 0) : lengthOf op = 1 := by revert op; decide

theorem lengthOf_of_ext (h : op.toNat % 8 = 1) : lengthOf op = 2 := by revert op; decide

theorem ReadFrom.flagBranch {i : Instr} (cc : BitVec 2) (h : op.toNat % 8 = 2 * cc.toNat)
    (hwf : i.wellFormed = true) (henc : encode i = [encodePcr (pcrField op) cc]) : ReadFrom op b1 b2 i := by
  have hlen : lengthOf op = 1 := lengthOf_of_even (by omega)
  exact .one hlen hwf (henc.trans (congrArg (fun o => [o]) (encodePcr_pcrField cc h)))

theorem ReadFrom.ext {i : Instr} (t : BitVec 1) (h : op.toNat % 16 = 8 * t.toNat + 1)
    (hwf : i.wellFormed = true) (henc : encode i = encodeExt (extAddress op b1) t) : ReadFrom op b1 b2 i := by
  have hlen : lengthOf op = 2 := lengthOf_of_ext (by omega)
  exact .two hlen hwf (henc.trans (encodeExt_extAddress t b1 h))

theorem ReadFrom.bitBranch {i : Instr} (low : BitVec 5) (h : op.toNat % 32 = low.toNat)
    (hcol : op.toNat % 16 = 3) (hwf : i.wellFormed = true) (henc : encode i = [bitField (bitNumber op) ++ low, b1, b2]) :
    ReadFrom op b1 b2 i := by
  have hlen : lengthOf op = 3 := by simp [lengthOf, hcol]
  exact .three hlen hwf (henc.trans (congrArg (fun o => [o, b1, b2]) (bitField_bitNumber low h)))

theorem ReadFrom.bitChange {i : Instr} (low : BitVec 5) (h : op.toNat % 32 = low.toNat)
    (hcol : op.toNat % 16 = 11) (hwf : i.wellFormed = true) (henc : encode i = [bitField (bitNumber op) ++ low, b1]) :
    ReadFrom op b1 b2 i := by
  have hlen : lengthOf op = 2 := by simp [lengthOf, hcol]
  exact .two hlen hwf (henc.trans (congrArg (fun o => [o, b1]) (bitField_bitNumber low h)))

end

/-- The columns as the decode tree of R101 tells them apart. -/
theorem column_cases (op : Byte) :
    (op.toNat % 8 = 0 ∨ op.toNat % 8 = 2 ∨ op.toNat % 8 = 4 ∨ op.toNat % 8 = 6)
    ∨ (op.toNat % 16 = 1 ∨ op.toNat % 16 = 9)
    ∨ (op.toNat % 32 = 3 ∨ op.toNat % 32 = 19 ∨ op.toNat % 32 = 11 ∨ op.toNat % 32 = 27)
    ∨ op.toNat % 32 = 5 ∨ (op.toNat % 32 = 21 ∨ op.toNat % 32 = 29) ∨ op.toNat % 32 = 13
    ∨ op.toNat % 32 = 23 ∨ op.toNat % 32 = 7 ∨ op.toNat % 32 = 15 ∨ op.toNat % 32 = 31 := by
  omega

/-- Every answer of the decode tree of R101 stands for the bytes it was read from. -/
theorem decodeOp_readFrom (op b1 b2 : Byte) : ReadFrom op b1 b2 (decodeOp op b1 b2) := by
  rcases column_cases op with (h | h | h | h) | (h | h) | (h | h | h | h) | h | h | h | h | h | h | h
  · rw [decodeOp_jrnz h]
    exact .flagBranch 0 h rfl rfl
  · rw [decodeOp_jrnc h]
    exact .flagBranch 1 h rfl rfl
  · rw [decodeOp_jrz h]
    exact .ite (fun h0 => .flagBranch 2 h rfl (by rw [h0]; rfl))
      (fun hne => .flagBranch 2 h (decide_eq_true hne) rfl)
  · rw [decodeOp_jrc h]
    exact .flagBranch 3 h rfl rfl
  · rw [decodeOp_call h]
    exact .ext 0 h rfl rfl
  · rw [decodeOp_jp h]
    exact .ext 1 h rfl rfl
  · rw [decodeOp_jrr h]
    exact .bitBranch 3 h (by omega) rfl rfl
  · rw [decodeOp_jrs h]
    exact .bitBranch 19 h (by omega) rfl rfl
  · rw [decodeOp_resBit h]
    exact .bitChange 11 h (by omega) rfl rfl
  · rw [decodeOp_setBit h]
    exact .bitChange 27 h (by omega) rfl rfl
  · rw [decodeOp_illegal h]
    exact readFrom_illegal h
  · rw [decodeOp_short h]
    exact readFrom_short h
  · rw [decodeOp_inherent h]
    exact readFrom_inherent h
  · rw [decodeOp_immediate h]
    exact readFrom_immediate h
  · rw [decodeOp_indirectX h]
    exact readFrom_indirectX h
  · rw [decodeOp_indirectY h]
    exact readFrom_indirectY h
  · rw [decodeOp_direct h]
    exact readFrom_direct h

/-- The other direction: the decoder's answer is well formed and encodes to the bytes read. -/
theorem encode_of_decode {bs : List Byte} {i : Instr} (h : decode bs = .ok i) :
    i.wellFormed = true ∧ encode i = bs.take (encode i).length := by
  obtain ⟨op, rest, rfl, ⟨hlen, rfl⟩ | ⟨b1, tail, hlen, rfl, rfl⟩ | ⟨b1, b2, tail, hlen, rfl, rfl⟩⟩ :=
    decode_ok h
  · obtain ⟨hwf, henc⟩ := decodeOp_readFrom op 0 0
    rw [max_eq_left hlen] at henc
    exact ⟨hwf, by rw [henc]; rfl⟩
  · obtain ⟨hwf, henc⟩ := decodeOp_readFrom op b1 0
    rw [hlen] at henc
    exact ⟨hwf, by rw [henc]; rfl⟩
  · obtain ⟨hwf, henc⟩ := decodeOp_readFrom op b1 b2
    rw [hlen] at henc
    exact ⟨hwf, by rw [henc]; rfl⟩

/-- Two operand bytes are enough for every opcode byte (R100). -/
theorem exists_decode (op b1 b2 : Byte) : ∃ i, decode [op, b1, b2] = .ok i := by
  have hle := lengthOf_le_three op
  obtain h | h | h : lengthOf op ≤ 1 ∨ lengthOf op = 2 ∨ lengthOf op = 3 := by omega
  · exact ⟨_, decode_short _ h⟩
  · exact ⟨_, decode_two b1 _ h⟩
  · exact ⟨_, decode_three b1 b2 _ h⟩

end Sys2Proof

namespace Sys2Proof.Machine

/-! ### What the other spellings do (R128 to R132) -/

theorem pcrTarget_zero (s : State) : pcrTarget s 0 = s.pc + 1 := by simp [pcrTarget]

/-- Both ways of a JRZ with e = 0 lead to the next instruction (R128). -/
theorem execJrz_zero (s : State) : execJrz 0 s = execNop s := by
  unfold execJrz branchIf
  rw [pcrTarget_zero]
  split <;> rfl

/-- A SUB whose source is the accumulator reads A itself, with no call to the platform (20_memory R62). -/
theorem subFrom_accAddress (len : Nat) (s : State) :
    subFrom accAddress len s = .next ((subA s.a s).advance len) := by
  have hread : dataRead accAddress s = .ok (s.a, s) := dataRead_of_core (r := .acc) s rfl
  simp only [subFrom, withSource, hread]

theorem subA_self (s : State) : subA s.a s = (s.setA 0).setFlags ⟨true, false⟩ := by
  simp [subA, isZero, borrow]

theorem setFlags_flagsBecome {s t : State} {z c : Bool} (hmode : t.mode = s.mode)
    (hflags : SameFlags s t) : FlagsBecome s (t.setFlags ⟨z, c⟩) z c := by
  obtain ⟨hn, hi, hm⟩ := hflags
  cases h : s.mode <;> simp [FlagsBecome, h, hmode, hn, hi, hm]

/-- A result in A, two flags and the program counter moved: nothing else changes. -/
theorem accResult_of_setA_setFlags (s : State) (r : Byte) (z c : Bool) (len : Nat) :
    AccResult s (((s.setA r).setFlags ⟨z, c⟩).advance len) r z c len := by
  have hflags : FlagsBecome s ((s.setA r).setFlags ⟨z, c⟩) z c := setFlags_flagsBecome rfl ⟨rfl, rfl, rfl⟩
  exact ⟨by simp, hflags, by simp, by simp [SameShort], by simp [SameData],
    by simp [SameRest, SameStack, SameMode, SameOutside]⟩

theorem silent_of_setA_setFlags (s : State) (r : Byte) (f : FlagPair) (len : Nat) :
    Silent s (((s.setA r).setFlags f).advance len) := by simp [Silent, Called]

end Sys2Proof.Machine

open Sys2Proof Sys2Proof.Machine

/-- Settles O5: on its own bytes the decode tree answers the instruction, and the decoder looks no further. -/
theorem decodeOfEncodeIsIdentity : Obligations.DecodeOfEncodeIsIdentity :=
  fun _ rest hwf => decode_encode hwf rest

/-- Settles O6: in every column of the opcode map the answer stands for the bytes it was read from. -/
theorem encodeOfDecodeIsTheBytesRead : Obligations.EncodeOfDecodeIsTheBytesRead :=
  fun _ _ h => encode_of_decode h

/-- Settles O1: an illegal byte is the encoding of its own term; and where the answer is `illegal o`, its
encoding says that `o` is the byte read, and its well-formedness that `o` is one of the twelve. -/
theorem twelveOpcodesAreIllegal : Obligations.TwelveOpcodesAreIllegal := by
  refine ⟨rfl, fun op b1 b2 hmem => ?illegal, fun op b1 b2 hmem => ?legal⟩
  case illegal => exact decode_encode (i := .illegal op) (decide_eq_true hmem) [b1, b2]
  case legal =>
    obtain ⟨i, hi⟩ := exists_decode op b1 b2
    obtain ⟨hwf, henc⟩ := encode_of_decode hi
    refine ⟨i, hi, hwf, ?_⟩
    rintro o rfl
    obtain rfl : o = op := List.head_eq_of_cons_eq henc
    exact hmem (of_decide_eq_true hwf)

/-- Settles O3: the two bytes are the encoding of the CALL and of the JP with this address. -/
theorem extendedAddressHalves : Obligations.ExtendedAddressHalves := by
  intro c ab abc habc
  obtain rfl : abc = ab ++ c := BitVec.eq_of_toNat_eq (by
    rw [habc, BitVec.toNat_append, ← Nat.shiftLeft_add_eq_or_of_lt c.isLt, Nat.shiftLeft_eq]; omega)
  have hcall := decode_encode (i := .call (ab ++ c)) rfl []
  have hjp := decode_encode (i := .jp (ab ++ c)) rfl []
  rw [encode_call_append] at hcall
  rw [encode_jp_append] at hjp
  exact ⟨hcall, hjp⟩

/-- Settles O27: A - A is 0 with no borrow, and A is read and written without the platform. -/
theorem clearAccumulatorResult : Obligations.ClearAccumulatorResult := by
  refine ⟨decode_encode (i := .clrA) rfl [], fun s => ⟨_, subFrom_accAddress 2 s, ?_⟩⟩
  rw [subA_self]
  exact ⟨accResult_of_setA_setFlags s 0 true false 2, silent_of_setA_setFlags s 0 _ 2⟩

/-- Settles O2, by the eight values of the field's three bits. -/
theorem bitNumberFieldIsReversed : Obligations.BitNumberFieldIsReversed := by
  refine ⟨fun op => ?_, by decide⟩
  unfold bitNumber
  generalize op.getLsbD 5 = x, op.getLsbD 6 = y, op.getLsbD 7 = z
  revert x y z
  decide

/-- Settles O4, by running the decoder on each word. -/
theorem exampleWordsDecode : Obligations.ExampleWordsDecode :=
  ⟨rfl, rfl, rfl, rfl, rfl, rfl, rfl, rfl, rfl, rfl, rfl⟩

/-- Settles O38: it is the meaning of the illegal row (R119). -/
theorem illegalOpcodeStops : Obligations.IllegalOpcodeStops := fun _ _ => rfl

/-- Settles O39: the bytes are the encodings of the other spellings, and each but NOP runs its
core instruction's operation; NOP's is that of a JRZ that goes to the next instruction either way. -/
theorem spellingsMeanTheirCoreInstruction : Obligations.SpellingsMeanTheirCoreInstruction := by
  refine ⟨⟨decode_encode (i := .nop) rfl [], decode_encode (i := .slaA) rfl [],
    decode_encode (i := .clrA) rfl [], decode_encode (i := .incA) rfl [], decode_encode (i := .decA) rfl [],
    fun rr => decode_encode (i := .clrDir rr) rfl []⟩, fun s => ?_⟩
  exact ⟨(execJrz_zero s).symm, rfl, rfl, rfl, rfl, fun _ => rfl⟩
end

section
/-! SUPPORT. The load and store instructions (40_load_store R140 to R150) said as the statements say them: what
an instruction with one read leaves, what one with one write leaves; and where any instruction completes. -/

namespace Sys2Proof.Machine

/-! ### Short-direct registers as data-space locations (R149) -/

theorem coreReg_shortAddress (r : ShortReg) : coreReg (shortAddress r) = some (.short r) := by
  cases r <;> rfl

@[simp] theorem readable_shortAddress (s : State) (r : ShortReg) : readable s (shortAddress r) = true := by
  simp [readable, coreReg_shortAddress]

@[simp] theorem writable_shortAddress (s : State) (r : ShortReg) : writable s (shortAddress r) = true := by
  simp [writable, coreReg_shortAddress]

@[simp] theorem readCalls_shortAddress (s : State) (r : ShortReg) : readCalls s (shortAddress r) = [] := by
  simp [readCalls, coreReg_shortAddress]

@[simp] theorem writeCalls_shortAddress (r : ShortReg) (b : Byte) : writeCalls (shortAddress r) b = [] := by
  simp [writeCalls, coreReg_shortAddress]

/-! ### One read, with the result in A -/

theorem withSource_ok {ea : Byte} {s : State} (k : Byte → State → State) (h : readable s ea = true) :
    withSource ea s k = .next (k (dataByte s ea) (afterRead s ea)) := by
  simp only [withSource, dataRead_ok h]

/-- A result does not speak of the calls made, so a read before it makes no difference. -/
theorem AccResult.of_afterRead {s t : State} {ea r : Byte} {z c : Bool} {len : Nat}
    (h : AccResult (afterRead s ea) t r z c len) : AccResult s t r z c len := by
  rw [afterRead_eq] at h
  exact h

/-- A read, then a result in A, two flags and the program counter moved: nothing else changes, and the read
makes the only call. -/
theorem accResult_of_afterRead_setA_setFlags (s : State) (ea r : Byte) (z c : Bool) (len : Nat) :
    AccResult s ((((afterRead s ea).setA r).setFlags ⟨z, c⟩).advance len) r z c len
    ∧ Called s ((((afterRead s ea).setA r).setFlags ⟨z, c⟩).advance len)
        (readCalls s ea) (readCalls s ea).length := by
  have hread : Called s (afterRead s ea) (readCalls s ea) (readCalls s ea).length := afterRead_called s ea
  exact ⟨(accResult_of_setA_setFlags (afterRead s ea) r z c len).of_afterRead,
    hread.trans (silent_of_setA_setFlags (afterRead s ea) r ⟨z, c⟩ len)⟩

/-- A load writes Z and keeps C of the pair in use (R140). -/
theorem loadA_eq (v : Byte) (s : State) : loadA v s = (s.setA v).setFlags ⟨v = 0, s.flags.c⟩ := rfl

theorem loadFrom_completes {s : State} {ea : Byte} (len : Nat) (h : readable s ea = true) :
    Completes (loadFrom ea len s) fun t =>
      AccResult s t (dataByte s ea) (dataByte s ea = 0) s.flags.c len
      ∧ Called s t (readCalls s ea) (readCalls s ea).length := by
  refine ⟨_, withSource_ok _ h, ?_⟩
  rw [loadA_eq, afterRead_flags]
  exact accResult_of_afterRead_setA_setFlags s ea (dataByte s ea) (dataByte s ea = 0) s.flags.c len

/-- LD A,x[i] loads from the register's data-space address. -/
theorem execLdAReg_eq (r : ShortReg) (s : State) : execLdAReg r s = loadFrom (shortAddress r) 1 s := by
  simp [execLdAReg, loadFrom, withSource, dataRead_of_core s (coreReg_shortAddress r), State.coreByte]

/-! ### One write -/

theorem withStore_ok {ea : Byte} {s : State} (b : Byte) (k : State → State) (h : writable s ea = true) :
    withStore ea b s k = .next (k (afterWrite s ea b)) := by
  simp only [withStore, dataWrite_ok b h]

theorem afterWrite_sameFlags (s : State) (ea b : Byte) : SameFlags s (afterWrite s ea b) := by
  simp [SameFlags]

theorem State.setFlags_flags_self (s : State) : s.setFlags s.flags = s := by
  cases s
  cases ‹Mode› <;> rfl

/-- A write, then two flags and the program counter moved: nothing else changes, and the write makes the only
call. -/
theorem storeResult_of_afterWrite_setFlags (s : State) (ea b : Byte) (z c : Bool) (len : Nat) :
    StoreResult s (((afterWrite s ea b).setFlags ⟨z, c⟩).advance len) ea b z c len
    ∧ Called s (((afterWrite s ea b).setFlags ⟨z, c⟩).advance len) (writeCalls ea b) 0 := by
  have hstored : Stored s ((afterWrite s ea b).setFlags ⟨z, c⟩) ea b :=
    (afterWrite_stored s ea b).trans (by simp [SameRegs, SameShort]) (by simp [SameData])
  have hflags : FlagsBecome s ((afterWrite s ea b).setFlags ⟨z, c⟩) z c :=
    setFlags_flagsBecome (afterWrite_mode s ea b) (afterWrite_sameFlags s ea b)
  exact ⟨⟨hstored, hflags, by simp, by simp [SameRest, SameStack, SameMode, SameOutside]⟩,
    by simp [Called, afterWrite_called]⟩

theorem storeA_completes {s : State} {ea : Byte} (len : Nat) (h : writable s ea = true) :
    Completes (storeA ea len s) fun t =>
      StoreResult s t ea s.a (s.a = 0) s.flags.c len ∧ Called s t (writeCalls ea s.a) 0 := by
  refine ⟨_, withStore_ok s.a _ h, ?_⟩
  rw [State.setZ, afterWrite_flags]
  exact storeResult_of_afterWrite_setFlags s ea s.a (s.a = 0) s.flags.c len

/-- LD x[i],A stores to the register's data-space address. -/
theorem execLdRegA_eq (r : ShortReg) (s : State) : execLdRegA r s = storeA (shortAddress r) 1 s := by
  simp [execLdRegA, storeA, withStore, dataWrite_ok, afterWrite, coreReg_shortAddress, State.setCore]

/-- The flags become what they were (R148). -/
theorem storeImmediate_completes {s : State} {ea : Byte} (nn : Byte) (len : Nat) (h : writable s ea = true) :
    Completes (storeImmediate ea nn len s) fun t =>
      StoreResult s t ea nn s.flags.z s.flags.c len ∧ SameFlags s t ∧ Called s t (writeCalls ea nn) 0 := by
  obtain ⟨hresult, hcalled⟩ := storeResult_of_afterWrite_setFlags s ea nn s.flags.z s.flags.c len
  have hself : (afterWrite s ea nn).setFlags ⟨s.flags.z, s.flags.c⟩ = afterWrite s ea nn := by
    rw [← afterWrite_flags s ea nn]
    exact State.setFlags_flags_self _
  rw [hself] at hresult hcalled
  exact ⟨_, withStore_ok nn _ h, hresult, afterWrite_sameFlags s ea nn, hcalled⟩

/-! ### Where an instruction completes (R150, 60_exceptions R260) -/

/-- The answer is a next state where `ok` says so, and a fault elsewhere. -/
def AnswersWhere (ok : Bool) (o : Outcome) : Prop :=
  (ok = true ∧ ∃ t, o = .next t) ∨ (ok = false ∧ ∃ f, o = .fault f)

namespace AnswersWhere

theorem iff_and_not_refused {ok : Bool} {o : Outcome} (h : AnswersWhere ok o) :
    ((∃ t, o = .next t) ↔ ok = true) ∧ ∀ r, o ≠ .refused r := by
  obtain ⟨hok, t, rfl⟩ | ⟨hok, f, rfl⟩ := h <;> simp [hok]

/-! One lemma for each shape of instruction. -/

theorem of_next (t : State) : AnswersWhere true (.next t) := .inl ⟨rfl, t, rfl⟩

theorem of_source (ea : Byte) (s : State) (k : Byte → State → State) :
    AnswersWhere (readable s ea) (withSource ea s k) := by
  obtain ⟨h, e⟩ | ⟨h, e⟩ := withSource_cases ea s k
  · exact .inl ⟨h, _, e⟩
  · exact .inr ⟨h, _, e⟩

theorem of_store (ea b : Byte) (s : State) (k : State → State) :
    AnswersWhere (writable s ea) (withStore ea b s k) :=
  (withStore_cases ea b s k).imp (fun ⟨h, e⟩ => ⟨h, _, e⟩) id

/-- A location that takes writes answers reads, so the read adds nothing to where an update completes. -/
theorem of_update (ea : Byte) (s : State) (f : Byte → Byte) (k : Byte → State → State) :
    AnswersWhere (readable s ea && writable s ea) (withUpdate ea s f k) := by
  have hand : (readable s ea && writable s ea) = writable s ea :=
    Bool.and_eq_right_iff_imp.mpr writable_readable
  rw [hand]
  exact (withUpdate_cases ea s f k).imp (fun ⟨h, e⟩ => ⟨h, _, e⟩) id

theorem of_call (abc : Addr) (s : State) : AnswersWhere (canPush s) (execCall abc s) := by
  unfold execCall
  cases h : canPush s with
  | true =>
    obtain ⟨u, hu⟩ := push_ok_of_canPush (s.pc + 2) h
    rw [hu]
    exact .inl ⟨rfl, _, rfl⟩
  | false =>
    rw [push_error_of_not_canPush (s.pc + 2) h]
    exact .inr ⟨rfl, _, rfl⟩

/-- The cases are grouped by the shape of the instruction, as the accesses are (`Accesses.of_exec`). -/
theorem of_exec (i : Instr) (s : State) : AnswersWhere (runsOn i s) (exec i s) := by
  cases i with
  | illegal op => exact .inr ⟨rfl, _, rfl⟩
  | call abc =>
    simp only [runsOn, readAddress, writeAddress, Option.all_none, Bool.and_true]
    exact of_call abc s
  | jrnz _ | jrnc _ | jrz _ | jrc _ | jp _ | incReg _ | ldAReg _ | decReg _ | ldRegA _
  | ldiA _ | cpi _ | addi _ | andi _ | subi _ | com | reti | stop | rlc | ret | wait | nop => exact of_next _
  | ldAInd _ | ldADir _ | addInd _ | addDir _ | slaA | subInd _ | subDir _ | clrA
  | cpInd _ | cpDir _ | andInd _ | andDir _ | jrr _ _ _ | jrs _ _ _ =>
    simp only [runsOn, readAddress, writeAddress, Option.all_some, Option.all_none, Bool.true_and,
      Bool.and_true, exec, execSlaA, execClrA, addFrom, subFrom]
    exact of_source _ s _
  | ldIndA _ | ldDirA _ | ldiDir _ _ | clrDir _ =>
    simp only [runsOn, readAddress, writeAddress, Option.all_some, Option.all_none, Bool.true_and]
    exact of_store _ _ s _
  | incInd _ | incDir _ | incA | decInd _ | decDir _ | decA | resBit _ _ | setBit _ _ =>
    simp only [runsOn, readAddress, writeAddress, Option.all_some, Bool.true_and, exec, execIncInd,
      execIncDir, execIncA, execDecInd, execDecDir, execDecA, execResBit, execSetBit, increment, decrement]
    exact of_update _ s _ _

end AnswersWhere

end Sys2Proof.Machine

open Sys2Proof Sys2Proof.Machine

/-- Settles O15: the register form is the load from the register's address, which makes no call; LDI A loads
without a read. -/
theorem loadAccumulatorResults : Obligations.LoadAccumulatorResults := by
  refine ⟨?words, fun s r => ?register, fun s p h => loadFrom_completes 1 h,
    fun s rr h => loadFrom_completes 2 h, fun s nn => ?immediate⟩
  case words =>
    exact ⟨decode_encode (i := .ldAReg .x) rfl [], decode_encode (i := .ldAReg .y) rfl [],
      decode_encode (i := .ldAReg .v) rfl [], decode_encode (i := .ldAReg .w) rfl [],
      decode_encode (i := .ldAInd .x) rfl [], decode_encode (i := .ldAInd .y) rfl [],
      fun rr => decode_encode (i := .ldADir rr) rfl [], fun nn => decode_encode (i := .ldiA nn) rfl []⟩
  case register =>
    have hload := loadFrom_completes 1 (readable_shortAddress s r)
    rwa [readCalls_shortAddress, ← execLdAReg_eq] at hload
  case immediate =>
    exact ⟨_, rfl, accResult_of_setA_setFlags s nn (nn = 0) s.flags.c 2, silent_of_setA_setFlags s nn _ 2⟩

/-- Settles O16: the register form is the store to the register's address, which makes no call. -/
theorem storeAccumulatorResults : Obligations.StoreAccumulatorResults := by
  refine ⟨?words, fun s r => ?register, fun s p h => storeA_completes 1 h, fun s rr h => storeA_completes 2 h⟩
  case words =>
    exact ⟨decode_encode (i := .ldRegA .x) rfl [], decode_encode (i := .ldRegA .y) rfl [],
      decode_encode (i := .ldRegA .v) rfl [], decode_encode (i := .ldRegA .w) rfl [],
      decode_encode (i := .ldIndA .x) rfl [], decode_encode (i := .ldIndA .y) rfl [],
      fun rr => decode_encode (i := .ldDirA rr) rfl []⟩
  case register =>
    have hstore := storeA_completes 1 (writable_shortAddress s r)
    rwa [writeCalls_shortAddress, ← execLdRegA_eq] at hstore

/-- Settles O17: CLR rr runs LDI's operation with 00h, and the words are the encodings of the two. -/
theorem loadImmediateToDataSpaceResults : Obligations.LoadImmediateToDataSpaceResults := by
  refine ⟨fun rr nn => ?words, fun s rr nn h => storeImmediate_completes nn 3 h,
    fun s rr h => storeImmediate_completes 0 3 h⟩
  case words =>
    split
    case isTrue h0 => subst h0; exact decode_encode (i := .clrDir rr) rfl []
    case isFalse h0 => exact decode_encode (i := .ldiDir rr nn) (decide_eq_true h0) []

/-- Settles O40, by the shapes of the instructions. -/
theorem instructionsCompleteExactlyWhereTheyCan : Obligations.InstructionsCompleteExactlyWhereTheyCan :=
  fun i s => (AnswersWhere.of_exec i s).iff_and_not_refused
end

section
/-! SUPPORT. The arithmetic and logic instructions (41_arith_logic R160 to R187) said as the statements say them:
what an operation on A leaves, with any source, and what a read-modify-write leaves. -/

namespace Sys2Proof.Machine

/-! ### The words of the direct mode whose operand FFh has a spelling of its own (R129, R130, R132) -/

theorem decode_direct_or_spelling {op : Byte} {spelling direct : Instr} (rr : Byte)
    (hspelling : decode [op, 0xFF] = .ok spelling) (hdirect : rr ≠ 0xFF → decode [op, rr] = .ok direct) :
    decode [op, rr] = .ok (if rr = 0xFF then spelling else direct) := by
  split
  case isTrue hff => rw [hff, hspelling]
  case isFalse hff => exact hdirect hff

/-! ### The machine's bytes and flags as numbers (R161) -/

theorem add_eq_ofNat (a b : Byte) : a + b = BitVec.ofNat 8 (a.toNat + b.toNat) := BitVec.add_def a b

theorem sub_eq_ofInt (a b : Byte) : a - b = BitVec.ofInt 8 (a.toNat - b.toNat) := by
  apply BitVec.eq_of_toNat_eq
  rw [BitVec.toNat_ofInt, BitVec.toNat_sub]
  omega

theorem not_eq_ofNat (a : Byte) : ~~~a = BitVec.ofNat 8 (255 - a.toNat) := by
  bv_omega

theorem isZero_add (a b : Byte) : isZero (a + b) = decide ((a.toNat + b.toNat) % 256 = 0) := by
  rw [isZero, decide_eq_decide]
  bv_omega

theorem isZero_add_one (a : Byte) : isZero (a + 1) = decide (a = 0xFF) := by
  rw [isZero, decide_eq_decide]
  bv_omega

theorem isZero_sub (a b : Byte) : isZero (a - b) = decide (a = b) := by
  rw [isZero, decide_eq_decide]
  bv_omega

theorem isZero_not (a : Byte) : isZero (~~~a) = decide (a = 0xFF) := by
  rw [isZero, decide_eq_decide]
  bv_omega

/-- Bit 7 stands for 128. -/
theorem msb_eq (a : Byte) : msb a = decide (128 ≤ a.toNat) := BitVec.msb_eq_decide a

/-- Moving the bits up doubles the number, and the carry comes in below (R181). -/
theorem rotateLeftCarry_eq_ofNat (a : Byte) (c : Bool) :
    rotateLeftCarry a c = BitVec.ofNat 8 (2 * a.toNat + c.toNat) := by
  have hc : c.toNat < 2 := c.toNat_lt
  apply BitVec.eq_of_toNat_eq
  rw [rotateLeftCarry, BitVec.toNat_append, ← Nat.shiftLeft_add_eq_or_of_lt (BitVec.ofBool c).isLt,
    Nat.shiftLeft_eq, BitVec.extractLsb'_toNat, Nat.shiftRight_zero, BitVec.toNat_ofBool, BitVec.toNat_ofNat]
  omega

theorem getLsbD_zero_ofNat_double (n : Nat) : (BitVec.ofNat 8 (2 * n)).getLsbD 0 = false := by
  rw [BitVec.getLsbD_ofNat, Nat.testBit_zero, Nat.mul_mod_right]
  rfl

/-! ### A result in A and two flags (R160) -/

/-- Where A and the pair in use are those of `s`, whatever else was changed, `op` leaves `r` in A and `z` and `c`
in the pair in use, and does nothing else. -/
def LeavesInA (op : State → State) (s : State) (r : Byte) (z c : Bool) : Prop :=
  ∀ u : State, u.a = s.a → u.flags = s.flags → op u = (u.setA r).setFlags ⟨z, c⟩

theorem addA_leaves (src : Byte) (s : State) :
    LeavesInA (addA src) s (BitVec.ofNat 8 (s.a.toNat + src.toNat)) ((s.a.toNat + src.toNat) % 256 = 0)
      (256 ≤ s.a.toNat + src.toNat) := by
  intro u ha _
  rw [addA, isZero_add, carryOut, add_eq_ofNat, ha]

/-- A added to itself is doubled, and the carry out is its bit 7 (R182). -/
theorem addA_self_leaves (s : State) :
    LeavesInA (addA s.a) s (BitVec.ofNat 8 (2 * s.a.toNat)) (BitVec.ofNat 8 (2 * s.a.toNat) = 0)
      (128 ≤ s.a.toNat) := by
  have hzero : (2 * s.a.toNat) % 256 = 0 ↔ BitVec.ofNat 8 (2 * s.a.toNat) = 0 := by bv_omega
  have hcarry : 256 ≤ 2 * s.a.toNat ↔ 128 ≤ s.a.toNat := by omega
  have hadd := addA_leaves s.a s
  simpa only [← two_mul, hzero, hcarry] using hadd

theorem subA_leaves (src : Byte) (s : State) :
    LeavesInA (subA src) s (BitVec.ofInt 8 (s.a.toNat - src.toNat)) (s.a = src) (s.a.toNat < src.toNat) := by
  intro u ha _
  rw [subA, isZero_sub, borrow, sub_eq_ofInt, ha]

/-- A comparison puts back the A it found. -/
theorem compareA_leaves (src : Byte) (s : State) :
    LeavesInA (compareA src) s s.a (s.a = src) (s.a.toNat < src.toNat) := by
  intro u ha _
  have hself : u.setA s.a = u := by rw [← ha]; rfl
  rw [hself, compareA, borrow, ha]

theorem andA_leaves (src : Byte) (s : State) :
    LeavesInA (andA src) s (s.a &&& src) (s.a &&& src = 0) s.flags.c := by
  intro u ha hf
  rw [andA, loadA_eq, ha, hf]

namespace LeavesInA

variable {s : State} {r : Byte} {z c : Bool}

theorem next_completes {op : State → State} (h : LeavesInA op s r z c) (len : Nat) :
    Completes (.next ((op s).advance len)) fun t => AccResult s t r z c len ∧ Silent s t := by
  refine ⟨_, rfl, ?_⟩
  rw [h s rfl rfl]
  exact ⟨accResult_of_setA_setFlags s r z c len, silent_of_setA_setFlags s r ⟨z, c⟩ len⟩

/-- The read before the operation leaves A and the flags, so only its call is added. -/
theorem source_completes {op : Byte → State → State} {ea : Byte} (h : LeavesInA (op (dataByte s ea)) s r z c)
    (len : Nat) (hread : readable s ea = true) :
    Completes (withSource ea s fun src t => (op src t).advance len) fun t =>
      AccResult s t r z c len ∧ Called s t (readCalls s ea) (readCalls s ea).length := by
  refine ⟨_, withSource_ok _ hread, ?_⟩
  rw [h (afterRead s ea) (afterRead_a s ea) (afterRead_flags s ea)]
  exact accResult_of_afterRead_setA_setFlags s ea r z c len

end LeavesInA

/-! ### The accumulator as a data-space location (20_memory R62) -/

theorem readCalls_accAddress (s : State) : readCalls s accAddress = [] := rfl

theorem writeCalls_accAddress (b : Byte) : writeCalls accAddress b = [] := rfl

theorem dataByte_accAddress (s : State) : dataByte s accAddress = s.a := rfl

theorem writable_accAddress (s : State) : writable s accAddress = true := rfl

/-- An ADD whose source is the accumulator reads A itself, with no call to the platform. -/
theorem addFrom_accAddress (len : Nat) (s : State) :
    addFrom accAddress len s = .next ((addA s.a s).advance len) := by
  have hread : dataRead accAddress s = .ok (s.a, s) := dataRead_of_core (r := .acc) s rfl
  simp only [addFrom, withSource, hread]

/-- Of all data space a write to FFh changes A. -/
theorem StoreResult.accResult {s t : State} {b : Byte} {z c : Bool} {len : Nat}
    (h : StoreResult s t accAddress b z c len) : AccResult s t b z c len := by
  obtain ⟨⟨ha, hx, hy, hv, hw, hget, hram, hwin, hprog, hirq⟩, hflags, hpc, hrest⟩ := h
  exact ⟨ha, hflags, hpc, ⟨hx, hy, hv, hw⟩, ⟨hget, hram, hwin, hprog, hirq⟩, hrest⟩

/-! ### One read, then one write (20_memory R76, R77) -/

theorem withUpdate_ok {ea : Byte} {s : State} (f : Byte → Byte) (k : Byte → State → State)
    (h : writable s ea = true) :
    withUpdate ea s f k = .next (k (f (dataByte s ea)) (afterWrite (afterRead s ea) ea (f (dataByte s ea)))) := by
  simp only [withUpdate, dataRead_ok (writable_readable h)]
  exact withStore_ok _ _ (by rwa [afterRead_writable])

/-- A result does not speak of the calls made, so a read before it makes no difference. -/
theorem StoreResult.of_afterRead {s t : State} {ea b : Byte} {z c : Bool} {len : Nat}
    (h : StoreResult (afterRead s ea) t ea b z c len) : StoreResult s t ea b z c len := by
  rw [afterRead_eq] at h
  exact h

/-- A read-modify-write with Z from the byte written: the location takes that byte, C stays, and the read's call
comes before the write's. -/
theorem withUpdate_completes {s : State} {ea : Byte} (f : Byte → Byte) (len : Nat) (h : writable s ea = true) :
    Completes (withUpdate ea s f fun b t => (t.setZ (isZero b)).advance len) fun t =>
      StoreResult s t ea (f (dataByte s ea)) (isZero (f (dataByte s ea))) s.flags.c len
      ∧ Called s t (writeCalls ea (f (dataByte s ea)) ++ readCalls s ea) (readCalls s ea).length := by
  refine ⟨_, withUpdate_ok f _ h, ?_⟩
  generalize f (dataByte s ea) = b
  rw [State.setZ, afterWrite_flags, afterRead_flags]
  obtain ⟨hresult, hwrite⟩ := storeResult_of_afterWrite_setFlags (afterRead s ea) ea b (isZero b) s.flags.c len
  have hread : Called s (afterRead s ea) (readCalls s ea) (readCalls s ea).length := afterRead_called s ea
  exact ⟨hresult.of_afterRead, hread.trans hwrite⟩

theorem decrement_completes {s : State} {ea : Byte} (len : Nat) (h : writable s ea = true) :
    Completes (decrement ea len s) fun t =>
      StoreResult s t ea (BitVec.ofInt 8 ((dataByte s ea).toNat - 1)) (dataByte s ea = 1) s.flags.c len
      ∧ Called s t (writeCalls ea (BitVec.ofInt 8 ((dataByte s ea).toNat - 1)) ++ readCalls s ea)
          (readCalls s ea).length := by
  have hupdate := withUpdate_completes (fun b => b - 1) len h
  rwa [isZero_sub, sub_eq_ofInt] at hupdate

theorem increment_completes {s : State} {ea : Byte} (len : Nat) (h : writable s ea = true) :
    Completes (increment ea len s) fun t =>
      StoreResult s t ea (BitVec.ofNat 8 ((dataByte s ea).toNat + 1)) (dataByte s ea = 0xFF) s.flags.c len
      ∧ Called s t (writeCalls ea (BitVec.ofNat 8 ((dataByte s ea).toNat + 1)) ++ readCalls s ea)
          (readCalls s ea).length := by
  have hupdate := withUpdate_completes (fun b => b + 1) len h
  rwa [isZero_add_one, add_eq_ofNat] at hupdate

/-- At a register's data-space address the two accesses are of the register. -/
theorem withUpdate_shortAddress (r : ShortReg) (s : State) (f : Byte → Byte) (k : Byte → State → State) :
    withUpdate (shortAddress r) s f k = .next (k (f (s.reg r)) (s.setReg r (f (s.reg r)))) := by
  rw [withUpdate_ok f k (writable_shortAddress s r)]
  simp [dataByte, afterRead, afterWrite, coreReg_shortAddress, State.coreByte, State.setCore]

theorem execDecReg_eq (r : ShortReg) (s : State) : execDecReg r s = decrement (shortAddress r) 1 s := by
  rw [decrement, withUpdate_shortAddress, execDecReg]

theorem execIncReg_eq (r : ShortReg) (s : State) : execIncReg r s = increment (shortAddress r) 1 s := by
  rw [increment, withUpdate_shortAddress, execIncReg]

end Sys2Proof.Machine

open Sys2Proof Sys2Proof.Machine

/-- Settles O18: the sum of A and the source, wherever the source comes from. With rr = FFh the word is SLA A's. -/
theorem addResults : Obligations.AddResults := by
  refine ⟨?words, fun s rr h => (addA_leaves _ s).source_completes 2 h,
    fun s p h => (addA_leaves _ s).source_completes 1 h, fun s nn => (addA_leaves nn s).next_completes 2⟩
  case words =>
    exact ⟨fun rr => decode_direct_or_spelling rr (decode_encode (i := .slaA) rfl [])
        fun hff => decode_encode (i := .addDir rr) (decide_eq_true hff) [],
      decode_encode (i := .addInd .x) rfl [], decode_encode (i := .addInd .y) rfl [],
      fun nn => decode_encode (i := .addi nn) rfl []⟩

/-- Settles O19: the difference of A and the source, wherever the source comes from. With rr = FFh the word is
CLR A's. -/
theorem subtractResults : Obligations.SubtractResults := by
  refine ⟨?words, fun s rr h => (subA_leaves _ s).source_completes 2 h,
    fun s p h => (subA_leaves _ s).source_completes 1 h, fun s nn => (subA_leaves nn s).next_completes 2⟩
  case words =>
    exact ⟨fun rr => decode_direct_or_spelling rr (decode_encode (i := .clrA) rfl [])
        fun hff => decode_encode (i := .subDir rr) (decide_eq_true hff) [],
      decode_encode (i := .subInd .x) rfl [], decode_encode (i := .subInd .y) rfl [],
      fun nn => decode_encode (i := .subi nn) rfl []⟩

/-- Settles O20: the flags of the difference, with A put back. -/
theorem compareResults : Obligations.CompareResults := by
  refine ⟨?words, fun s rr h => (compareA_leaves _ s).source_completes 2 h,
    fun s p h => (compareA_leaves _ s).source_completes 1 h, fun s nn => (compareA_leaves nn s).next_completes 2⟩
  case words =>
    exact ⟨fun rr => decode_encode (i := .cpDir rr) rfl [], decode_encode (i := .cpInd .x) rfl [],
      decode_encode (i := .cpInd .y) rfl [], fun nn => decode_encode (i := .cpi nn) rfl []⟩

/-- Settles O21: A and the source bit by bit, with the C that was there. -/
theorem andResults : Obligations.AndResults := by
  refine ⟨?words, fun s rr h => (andA_leaves _ s).source_completes 2 h,
    fun s p h => (andA_leaves _ s).source_completes 1 h, fun s nn => (andA_leaves nn s).next_completes 2⟩
  case words =>
    exact ⟨fun rr => decode_encode (i := .andDir rr) rfl [], decode_encode (i := .andInd .x) rfl [],
      decode_encode (i := .andInd .y) rfl [], fun nn => decode_encode (i := .andi nn) rfl []⟩

/-- Settles O22: every form decrements a data-space location; the register's and A's make no call. -/
theorem decrementResults : Obligations.DecrementResults := by
  refine ⟨?words, fun s r => ?register, fun s p h => decrement_completes 1 h,
    fun s rr h => decrement_completes 2 h, fun s => ?accumulator⟩
  case words =>
    exact ⟨decode_encode (i := .decReg .x) rfl [], decode_encode (i := .decReg .y) rfl [],
      decode_encode (i := .decReg .v) rfl [], decode_encode (i := .decReg .w) rfl [],
      decode_encode (i := .decInd .x) rfl [], decode_encode (i := .decInd .y) rfl [],
      fun rr => decode_direct_or_spelling rr (decode_encode (i := .decA) rfl [])
        fun hff => decode_encode (i := .decDir rr) (decide_eq_true hff) []⟩
  case register =>
    have hdec := decrement_completes 1 (writable_shortAddress s r)
    rwa [readCalls_shortAddress, writeCalls_shortAddress, ← execDecReg_eq] at hdec
  case accumulator =>
    have hdec := decrement_completes 2 (writable_accAddress s)
    rw [readCalls_accAddress, writeCalls_accAddress, dataByte_accAddress] at hdec
    obtain ⟨t, ht, hresult, hsilent⟩ := hdec
    exact ⟨t, ht, hresult.accResult, hsilent⟩

/-- Settles O23: every form increments a data-space location; the register's and A's make no call. -/
theorem incrementResults : Obligations.IncrementResults := by
  refine ⟨?words, fun s r => ?register, fun s p h => increment_completes 1 h,
    fun s rr h => increment_completes 2 h, fun s => ?accumulator⟩
  case words =>
    exact ⟨decode_encode (i := .incReg .x) rfl [], decode_encode (i := .incReg .y) rfl [],
      decode_encode (i := .incReg .v) rfl [], decode_encode (i := .incReg .w) rfl [],
      decode_encode (i := .incInd .x) rfl [], decode_encode (i := .incInd .y) rfl [],
      fun rr => decode_direct_or_spelling rr (decode_encode (i := .incA) rfl [])
        fun hff => decode_encode (i := .incDir rr) (decide_eq_true hff) []⟩
  case register =>
    have hinc := increment_completes 1 (writable_shortAddress s r)
    rwa [readCalls_shortAddress, writeCalls_shortAddress, ← execIncReg_eq] at hinc
  case accumulator =>
    have hinc := increment_completes 2 (writable_accAddress s)
    rw [readCalls_accAddress, writeCalls_accAddress, dataByte_accAddress] at hinc
    obtain ⟨t, ht, hresult, hsilent⟩ := hinc
    exact ⟨t, ht, hresult.accResult, hsilent⟩

/-- Settles O24: the complement of A is 255 - A, and bit 7 stands for 128. -/
theorem complementResult : Obligations.ComplementResult := by
  refine ⟨decode_encode (i := .com) rfl [], fun s => ⟨_, rfl, ?_⟩⟩
  rw [isZero_not, msb_eq, not_eq_ofNat]
  exact ⟨accResult_of_setA_setFlags s _ _ _ 1, silent_of_setA_setFlags s _ _ 1⟩

/-- Settles O25: the byte A[6:0] : C is 2A + C modulo 256. -/
theorem rotateLeftResult : Obligations.RotateLeftResult := by
  refine ⟨decode_encode (i := .rlc) rfl [], fun s => ⟨_, rfl, ?_⟩⟩
  rw [rotateLeftCarry_eq_ofNat, msb_eq]
  exact ⟨accResult_of_setA_setFlags s _ _ _ 1, silent_of_setA_setFlags s _ _ 1⟩

/-- Settles O26: SLA A adds A to itself, without a call. -/
theorem shiftLeftResult : Obligations.ShiftLeftResult := by
  refine ⟨decode_encode (i := .slaA) rfl [], fun s => ?_⟩
  obtain ⟨t, ht, hresult, hsilent⟩ := (addA_self_leaves s).next_completes 2
  exact ⟨t, (addFrom_accAddress 2 s).trans ht, hresult, hsilent, getLsbD_zero_ofNat_double s.a.toNat⟩
end

section
/-! SUPPORT. The conditional branches (42_cond_branch R200 to R209) said as the statements say them: the words of
the two kinds, the targets as numbers, where a flag branch leads and what a bit test branch leaves. -/

namespace Sys2Proof

/-! ### The words (30_encoding R108, R113) -/

theorem encodePcr_eq_append : ∀ (e : BitVec 5) (cc : BitVec 2), encodePcr e cc = e ++ (cc ++ 0#1) := by decide

/-- The displacement stands above the three bits that name the flag branch. -/
theorem decode_flagBranch {i : Instr} {e : BitVec 5} (cc : BitVec 2) (hwf : i.wellFormed = true)
    (henc : encode i = [encodePcr e cc]) : decode [e ++ (cc ++ 0#1)] = .ok i := by
  have h := decode_encode hwf []
  rwa [henc, encodePcr_eq_append] at h

/-- The rows of JRR in the opcode map, by bit number. -/
theorem jrr_opcode : ∀ b : Fin 8,
    ([0x03, 0x83, 0x43, 0xC3, 0x23, 0xA3, 0x63, 0xE3] : List Byte).getD b.val 0 = bitField b ++ 0b00011#5 := by
  decide

/-- The rows of JRS in the opcode map, by bit number. -/
theorem jrs_opcode : ∀ b : Fin 8,
    ([0x13, 0x93, 0x53, 0xD3, 0x33, 0xB3, 0x73, 0xF3] : List Byte).getD b.val 0 = bitField b ++ 0b10011#5 := by
  decide

end Sys2Proof

namespace Sys2Proof.Machine

/-! ### The targets as numbers modulo 4096 (R114, R115) -/

theorem pcrTarget_eq_ofInt (s : State) (e : BitVec 5) :
    pcrTarget s e = BitVec.ofInt 12 (s.pc.toNat + 1 + e.toInt) := by
  rw [pcrTarget, BitVec.signExtend, BitVec.ofInt_add, BitVec.ofInt_add, BitVec.ofInt_natCast,
    BitVec.ofNat_toNat, BitVec.setWidth_eq]
  rfl

theorem btTarget_eq_ofInt (s : State) (ee : Byte) :
    btTarget s ee = BitVec.ofInt 12 (s.pc.toNat + s.cfg.btBase.toNat + ee.toInt) := by
  rw [btTarget, BitVec.signExtend, BitVec.ofInt_add, BitVec.ofInt_add, BitVec.ofInt_natCast,
    BitVec.ofInt_natCast, BitVec.ofNat_toNat, BitVec.ofNat_toNat, BitVec.setWidth_eq, BitVec.setWidth_eq]

/-- A read does not move the program counter or change the device's base. -/
@[simp] theorem btTarget_afterRead (s : State) (ea ee : Byte) : btTarget (afterRead s ea) ee = btTarget s ee := by
  simp [btTarget]

@[simp] theorem btTarget_setC (s : State) (c : Bool) (ee : Byte) : btTarget (s.setC c) ee = btTarget s ee := by
  simp [btTarget]

/-! ### The flag branches -/

/-- Taken or not, only the program counter moves. -/
theorem branchIf_eq {t : Bool} {p : Prop} [Decidable p] (e : BitVec 5) (s : State) (h : t = true ↔ p) :
    branchIf t e s = .next (if p then { s with pc := BitVec.ofInt 12 (s.pc.toNat + 1 + e.toInt) }
      else { s with pc := BitVec.ofNat 12 (s.pc.toNat + 1) }) := by
  rw [branchIf, if_congr h rfl rfl, State.setPc, pcrTarget_eq_ofInt, State.advance_eq]

/-! ### The bit test branches -/

/-- Taken or not, C takes the tested bit; only where the program counter goes depends on it. -/
theorem branchOnBit_ok {s : State} {rr : Byte} (want : Bool) (b : Fin 8) (ee : Byte) (h : readable s rr = true) :
    branchOnBit want b rr ee s = .next (((afterRead s rr).setC ((dataByte s rr).getLsbD b.val)).setPc
      (if (dataByte s rr).getLsbD b.val = want then btTarget s ee else BitVec.ofNat 12 (s.pc.toNat + 3))) := by
  rw [branchOnBit, withSource_ok _ h]
  dsimp only
  split
  case isTrue => simp
  case isFalse => rw [State.advance_eq]; simp [State.setPc]

/-- A read, then C and the program counter: the flags are the pair in use with the new C, and the read makes the
only call. -/
theorem afterRead_setC_setPc_effect (s : State) (rr : Byte) (c : Bool) (a : Addr) :
    FlagsBecome s (((afterRead s rr).setC c).setPc a) s.flags.z c
    ∧ SameRegs s (((afterRead s rr).setC c).setPc a) ∧ SameData s (((afterRead s rr).setC c).setPc a)
    ∧ SameRest s (((afterRead s rr).setC c).setPc a)
    ∧ Called s (((afterRead s rr).setC c).setPc a) (readCalls s rr) (readCalls s rr).length := by
  have hflags : FlagsBecome s ((afterRead s rr).setC c) s.flags.z c := by
    rw [State.setC, afterRead_flags]
    exact setFlags_flagsBecome (afterRead_mode s rr) (by simp [SameFlags])
  exact ⟨hflags, by simp [SameRegs, SameShort], by simp [SameData],
    by simp [SameRest, SameStack, SameMode, SameOutside], by simpa [Called] using afterRead_called s rr⟩

theorem branchOnBit_completes {s : State} {rr : Byte} (want : Bool) (b : Fin 8) (ee : Byte)
    (h : readable s rr = true) :
    Completes (branchOnBit want b rr ee s) fun t =>
      t.pc = (if (dataByte s rr).getLsbD b.val = want
          then BitVec.ofInt 12 (s.pc.toNat + s.cfg.btBase.toNat + ee.toInt) else BitVec.ofNat 12 (s.pc.toNat + 3))
      ∧ FlagsBecome s t s.flags.z ((dataByte s rr).getLsbD b.val) ∧ SameRegs s t ∧ SameData s t ∧ SameRest s t
      ∧ Called s t (readCalls s rr) (readCalls s rr).length := by
  refine ⟨_, branchOnBit_ok want b ee h, ?_, afterRead_setC_setPc_effect s rr _ _⟩
  rw [State.setPc_pc, btTarget_eq_ofInt]

end Sys2Proof.Machine

open Sys2Proof Sys2Proof.Machine

/-- Settles O28: the four test Z or C of the pair in use and lead to the same two places. With e = 0 the JRZ word
is NOP's. -/
theorem flagBranchResults : Obligations.FlagBranchResults := by
  refine ⟨⟨fun e => decode_flagBranch (i := .jrnz e) 0 rfl rfl, fun e => decode_flagBranch (i := .jrnc e) 1 rfl rfl,
    fun e => ?jrzWord, fun e => decode_flagBranch (i := .jrc e) 3 rfl rfl⟩, fun s e => ?_⟩
  case jrzWord =>
    split
    case isTrue h0 => subst h0; exact decode_encode (i := .nop) rfl []
    case isFalse h0 => exact decode_flagBranch (i := .jrz e) 2 (decide_eq_true h0) rfl
  have hclear (c : Bool) : (!c) = true ↔ c = false := by rw [Bool.not_eq_true']
  exact ⟨branchIf_eq e s (hclear s.flags.z), branchIf_eq e s (hclear s.flags.c), branchIf_eq e s Iff.rfl,
    branchIf_eq e s Iff.rfl⟩

/-- Settles O29: JRR and JRS are one operation, which branches on a clear or on a set bit; the reach is that of a
signed byte. -/
theorem bitTestBranchResults : Obligations.BitTestBranchResults := by
  refine ⟨rfl, fun ee => ?reach, fun b rr ee => ?words,
    fun s b rr ee h => ⟨branchOnBit_completes false b ee h, branchOnBit_completes true b ee h⟩⟩
  case reach =>
    have hlow := ee.le_toInt
    have hhigh := ee.toInt_lt
    omega
  case words =>
    rw [jrr_opcode, jrs_opcode]
    exact ⟨decode_encode (i := .jrr b rr ee) rfl [], decode_encode (i := .jrs b rr ee) rfl []⟩
end

section
/-! SUPPORT. The jump and call instructions (43_jump_call R220 to R223) said as the statements say them: the words
of the two, and what a CALL leaves. -/

namespace Sys2Proof

/-! ### The words (30_encoding R109, R116) -/

theorem decode_call (c : BitVec 4) (ab : Byte) : decode [c ++ 0b0001#4, ab] = .ok (.call (ab ++ c)) := by
  rw [← encode_call_append]
  exact decode_encode (i := .call (ab ++ c)) rfl []

theorem decode_jp (c : BitVec 4) (ab : Byte) : decode [c ++ 0b1001#4, ab] = .ok (.jp (ab ++ c)) := by
  rw [← encode_jp_append]
  exact decode_encode (i := .jp (ab ++ c)) rfl []

end Sys2Proof

namespace Sys2Proof.Machine

/-! ### CALL -/

/-- The address stacked, as a number modulo 4096 (R222, D5). -/
theorem returnAddress_eq_ofNat (pc : Addr) : pc + 2 = BitVec.ofNat 12 (pc.toNat + 2) := BitVec.add_def pc 2

theorem execCall_ok {s u : State} (abc : Addr) (h : push (s.pc + 2) s = .ok u) :
    execCall abc s = .next (u.setPc abc) := by
  rw [execCall, h]

/-- Outside the stack a push that answers leaves all as it was. -/
theorem push_frame {v : Addr} {s u : State} (h : push v s = .ok u) :
    SameFlags s u ∧ SameRegs s u ∧ SameData s u ∧ SameMode s u ∧ u.run = s.run ∧ SameOutside s u
      ∧ Silent s u := by
  rw [push_ok h]
  exact ⟨⟨rfl, rfl, rfl⟩, ⟨rfl, rfl, rfl, rfl, rfl⟩, ⟨fun _ => rfl, rfl, rfl, rfl, rfl⟩, ⟨rfl, rfl⟩, rfl,
    ⟨rfl, rfl, rfl, rfl⟩, ⟨rfl, rfl⟩⟩

end Sys2Proof.Machine

open Sys2Proof Sys2Proof.Machine

/-- Settles O32: where the push answers, CALL is that push of the return address and then the jump, which
touches neither the stack nor anything the push leaves alone. -/
theorem callResult : Obligations.CallResult := by
  refine ⟨decode_call, fun s abc hcan => ?_⟩
  obtain ⟨u, hpush⟩ := push_ok_of_canPush (s.pc + 2) hcan
  have hstack : Pushed s u (s.pc + 2) := push_pushed hpush
  rw [returnAddress_eq_ofNat] at hstack
  have hframe := push_frame hpush
  exact ⟨u.setPc abc, execCall_ok abc hpush, rfl, hstack, hframe⟩

/-- Settles O31: JP is the write of the program counter (R221). -/
theorem jumpResult : Obligations.JumpResult := ⟨decode_jp, fun _ _ => rfl⟩
end

section
/-! SUPPORT. The bit manipulation instructions (44_bit_manip R230 to R233) said as the statements say them: the words
of the two, each bit of the byte written, and what a read-modify-write that writes no flag leaves. -/

namespace Sys2Proof

/-! ### The words (30_encoding R113) -/

/-- The rows of RES in the opcode map, by bit number. -/
theorem res_opcode : ∀ b : Fin 8,
    ([0x0B, 0x8B, 0x4B, 0xCB, 0x2B, 0xAB, 0x6B, 0xEB] : List Byte).getD b.val 0 = bitField b ++ 0b01011#5 := by
  decide

/-- The rows of SET in the opcode map, by bit number. -/
theorem set_opcode : ∀ b : Fin 8,
    ([0x1B, 0x9B, 0x5B, 0xDB, 0x3B, 0xBB, 0x7B, 0xFB] : List Byte).getD b.val 0 = bitField b ++ 0b11011#5 := by
  decide

end Sys2Proof

namespace Sys2Proof.Machine

/-! ### The byte written, bit by bit (R231, R232) -/

@[simp] theorem getLsbD_bitMask (b : Fin 8) (n : Nat) : (bitMask b).getLsbD n = decide (n = b.val) := by
  have hmask : bitMask b = BitVec.twoPow 8 b.val := rfl
  rw [hmask, BitVec.getLsbD_twoPow, decide_eq_true b.isLt, Bool.true_and, decide_eq_decide]
  exact eq_comm

theorem getLsbD_and_not_bitMask (v : Byte) (b : Fin 8) {n : Nat} (hn : n < 8) :
    (v &&& ~~~(bitMask b)).getLsbD n = if n = b.val then false else v.getLsbD n := by
  rw [BitVec.getLsbD_and, BitVec.getLsbD_not, getLsbD_bitMask]
  by_cases hb : n = b.val <;> simp [hb, hn]

theorem getLsbD_or_bitMask (v : Byte) (b : Fin 8) (n : Nat) :
    (v ||| bitMask b).getLsbD n = if n = b.val then true else v.getLsbD n := by
  rw [BitVec.getLsbD_or, getLsbD_bitMask]
  by_cases hb : n = b.val <;> simp [hb]

/-! ### One read, then one write, and no flag (20_memory R76, R77) -/

/-- After its read, a read-modify-write that writes no flag stores a byte as LDI does. -/
theorem withUpdate_advance_eq {s : State} {ea : Byte} (f : Byte → Byte) (len : Nat) (h : readable s ea = true) :
    (withUpdate ea s f fun _ t => t.advance len) = storeImmediate ea (f (dataByte s ea)) len (afterRead s ea) := by
  simp only [withUpdate, dataRead_ok h, storeImmediate]

/-- The read before the store leaves the flags, so only its call is added. -/
theorem withUpdate_advance_completes {s : State} {ea : Byte} (f : Byte → Byte) (len : Nat)
    (h : writable s ea = true) :
    Completes (withUpdate ea s f fun _ t => t.advance len) fun t =>
      StoreResult s t ea (f (dataByte s ea)) s.flags.z s.flags.c len ∧ SameFlags s t
      ∧ Called s t (writeCalls ea (f (dataByte s ea)) ++ readCalls s ea) (readCalls s ea).length := by
  rw [withUpdate_advance_eq f len (writable_readable h)]
  have hwritable : writable (afterRead s ea) ea = true := by rwa [afterRead_writable]
  have hread : Called s (afterRead s ea) (readCalls s ea) (readCalls s ea).length := afterRead_called s ea
  obtain ⟨t, ht, hresult, hflags, hwrite⟩ := storeImmediate_completes (f (dataByte s ea)) len hwritable
  rw [afterRead_flags] at hresult
  refine ⟨t, ht, hresult.of_afterRead, ?_, hread.trans hwrite⟩
  simpa [SameFlags] using hflags

end Sys2Proof.Machine

open Sys2Proof Sys2Proof.Machine

/-- Settles O37: RES and SET are one read-modify-write each, with the mask of bit b taken out of the byte or put
into it. -/
theorem bitManipulationResults : Obligations.BitManipulationResults := by
  refine ⟨fun b rr => ?words, fun s b rr h => ?res, fun s b rr h => ?set⟩
  case words =>
    rw [res_opcode, set_opcode]
    exact ⟨decode_encode (i := .resBit b rr) rfl [], decode_encode (i := .setBit b rr) rfl []⟩
  case res =>
    obtain ⟨t, ht, hresult⟩ := withUpdate_advance_completes (fun v => v &&& ~~~(bitMask b)) 2 h
    exact ⟨t, ht, _, fun n hn => getLsbD_and_not_bitMask (dataByte s rr) b hn, hresult⟩
  case set =>
    obtain ⟨t, ht, hresult⟩ := withUpdate_advance_completes (fun v => v ||| bitMask b) 2 h
    exact ⟨t, ht, _, fun n _ => getLsbD_or_bitMask (dataByte s rr) b n, hresult⟩
end

section
/-! SUPPORT. The control instructions (45_control R240 to R249) said as the statements say them: what a return pops
and leaves, and that no instruction but RETI changes the mode. -/

namespace Sys2Proof.Machine

/-! ### The returns (R242, R245) -/

theorem popPc_of_sp_pos {s : State} (h : 0 < s.sp.val) :
    popPc s = { s with pc := s.stk.level s.sp.val, sp := ⟨s.sp.val - 1, by omega⟩ } := by
  rw [popPc, pop_of_sp_pos h]
  rfl

theorem popPc_popped (s : State) : Popped s (popPc s) := by
  obtain h0 | hpos := Nat.eq_zero_or_pos s.sp.val
  · rw [popPc_of_sp_zero h0]
    exact ⟨rfl, fun hpos => absurd h0 hpos.ne', fun _ => ⟨BitVec.toNat_add s.pc 1, h0⟩⟩
  · rw [popPc_of_sp_pos hpos]
    exact ⟨rfl, fun _ => ⟨rfl, rfl⟩, fun h0 => absurd h0 hpos.ne'⟩

/-- Outside the stack and the program counter a return's transfer leaves all as it was. -/
theorem popPc_frame (s : State) :
    SameFlags s (popPc s) ∧ SameRegs s (popPc s) ∧ SameData s (popPc s) ∧ SameMode s (popPc s)
      ∧ (popPc s).run = s.run ∧ SameOutside s (popPc s) ∧ Silent s (popPc s) := by
  rw [popPc_eq]
  exact ⟨⟨rfl, rfl, rfl⟩, ⟨rfl, rfl, rfl, rfl, rfl⟩, ⟨fun _ => rfl, rfl, rfl, rfl, rfl⟩, ⟨rfl, rfl⟩, rfl,
    ⟨rfl, rfl, rfl, rfl⟩, ⟨rfl, rfl⟩⟩

theorem ReturnMode.toMode_eq (r : ReturnMode) : r.toMode = if r = .int then .int else .normal := by
  cases r <;> rfl

theorem returnMode_eq (s : State) :
    returnMode s = if s.mode = .nmi then (if s.nmiRet = .int then .int else .normal) else .normal := by
  unfold returnMode
  cases s.mode with
  | nmi => exact s.nmiRet.toMode_eq
  | normal | int => rfl

/-! ### NOP, STOP and WAIT (R241, R247, R248) -/

theorem execNop_eq (s : State) : execNop s = .next { s with pc := BitVec.ofNat 12 (s.pc.toNat + 1) } := by
  rw [execNop, State.advance_eq]

theorem execStop_eq (s : State) : execStop s = .next { s with
    pc := BitVec.ofNat 12 (s.pc.toNat + 1), run := .stopped, bus := .haltStop :: s.bus } := by
  rw [execStop, State.advance_eq]

theorem execWait_eq (s : State) : execWait s = .next { s with
    pc := BitVec.ofNat 12 (s.pc.toNat + 1), run := .waiting, bus := .haltWait :: s.bus } := by
  rw [execWait, State.advance_eq]

/-! ### The mode (R246, R282) -/

namespace SameMode

variable {s t u : State} {ea : Byte}

/-! One lemma for each shape of instruction: neither an access nor a push changes the mode, so what the instruction
does after it decides. -/

theorem of_next (h : (.next u : Outcome) = .next t) (hk : SameMode s u) : SameMode s t := by
  cases h
  exact hk

theorem of_withSource {k : Byte → State → State} (h : withSource ea s k = .next t)
    (hk : ∀ v u, SameMode u (k v u)) : SameMode s t := by
  obtain ⟨_, rfl⟩ := withSource_next h
  simpa [SameMode] using hk (dataByte s ea) (afterRead s ea)

theorem of_withStore {b : Byte} {k : State → State} (h : withStore ea b s k = .next t)
    (hk : ∀ u, SameMode u (k u)) : SameMode s t := by
  obtain ⟨_, rfl⟩ := withStore_next h
  simpa [SameMode] using hk (afterWrite s ea b)

theorem of_withUpdate {f : Byte → Byte} {k : Byte → State → State} (h : withUpdate ea s f k = .next t)
    (hk : ∀ v u, SameMode u (k v u)) : SameMode s t := by
  obtain ⟨_, rfl⟩ := withUpdate_next h
  simpa [SameMode] using hk (f (dataByte s ea)) (afterWrite (afterRead s ea) ea (f (dataByte s ea)))

theorem of_call {abc : Addr} (h : execCall abc s = .next t) : SameMode s t := by
  unfold execCall at h
  cases hp : push (s.pc + 2) s with
  | error f => rw [hp] at h; cases h
  | ok u =>
    rw [hp] at h
    obtain ⟨_, _, _, hmode, _⟩ := push_frame hp
    exact of_next h hmode

/-- The cases are grouped by the shape of the instruction, as the accesses are (`Accesses.of_exec`). -/
theorem of_exec {i : Instr} (h : exec i s = .next t) (hi : i ≠ .reti) : SameMode s t := by
  cases i with
  | reti => exact absurd rfl hi
  | illegal _ => cases h
  | call _ => exact of_call h
  | ret =>
    obtain ⟨_, _, _, hmode, _⟩ := popPc_frame s
    exact of_next h hmode
  | nop | jp _ | stop | wait => exact of_next h ⟨rfl, rfl⟩
  | jrnz _ | jrnc _ | jrz _ | jrc _ => exact of_next h (by split <;> exact ⟨rfl, rfl⟩)
  | com | rlc | ldiA _ | addi _ | subi _ | andi _ | cpi _ | ldAReg _ | ldRegA _ | incReg _ | decReg _ =>
    exact of_next h (by simp [SameMode, loadA, addA, subA, compareA, andA])
  | ldAInd _ | ldADir _ | addInd _ | addDir _ | slaA | subInd _ | subDir _ | clrA
  | cpInd _ | cpDir _ | andInd _ | andDir _ =>
    simp only [exec, execLdAInd, execLdADir, execAddInd, execAddDir, execSlaA, execSubInd, execSubDir,
      execClrA, execCpInd, execCpDir, execAndInd, execAndDir, loadFrom, addFrom, subFrom, compareFrom,
      andFrom] at h
    exact of_withSource h fun v u => by simp [SameMode, loadA, addA, subA, compareA, andA]
  | jrr _ _ _ | jrs _ _ _ =>
    exact of_withSource h fun v u => by dsimp only; split <;> simp [SameMode]
  | ldIndA _ | ldDirA _ | ldiDir _ _ | clrDir _ =>
    exact of_withStore h fun u => by simp [SameMode]
  | incInd _ | incDir _ | incA | decInd _ | decDir _ | decA | resBit _ _ | setBit _ _ =>
    simp only [exec, execIncInd, execIncDir, execIncA, execDecInd, execDecDir, execDecA, execResBit,
      execSetBit, increment, decrement] at h
    exact of_withUpdate h fun v u => by simp [SameMode]

end SameMode

end Sys2Proof.Machine

open Sys2Proof Sys2Proof.Machine

/-- Settles O34: RET is the pop's transfer, which leaves all else. -/
theorem returnResult : Obligations.ReturnResult :=
  ⟨decode_encode (i := .ret) rfl [], fun s => ⟨popPc s, rfl, popPc_popped s, popPc_frame s⟩⟩

/-- Settles O35: RETI is RET's transfer and then the mode change, which touches nothing else. -/
theorem returnFromInterruptResult : Obligations.ReturnFromInterruptResult := by
  refine ⟨decode_encode (i := .reti) rfl [], fun s => ?_⟩
  obtain ⟨hflags, hregs, hdata, ⟨_, hnmiRet⟩, hrest⟩ := popPc_frame s
  exact ⟨returnFromInterrupt s, rfl, popPc_popped s, returnMode_eq s, hnmiRet, hflags, hregs, hdata, hrest⟩

/-- Settles O44, by the shapes of the instructions. -/
theorem onlyRetiChangesTheMode : Obligations.OnlyRetiChangesTheMode := fun _ _ _ => SameMode.of_exec

/-- Settles O30: NOP is the move of the program counter. -/
theorem nopResult : Obligations.NopResult := ⟨decode_encode (i := .nop) rfl [], execNop_eq⟩

/-- Settles O36: the two differ in the run state and in the notice. -/
theorem stopAndWaitResults : Obligations.StopAndWaitResults :=
  ⟨decode_encode (i := .stop) rfl [], decode_encode (i := .wait) rfl [],
    fun s => ⟨execStop_eq s, execWait_eq s⟩⟩
end

section
/-! SUPPORT. Exceptions (60_exceptions R260 to R285) said as the statements say them: why an instruction stops, what
a step does, which interrupt is accepted, and what its entry leaves. -/

namespace Sys2Proof.Machine

/-! ### Why an instruction stops (R260) -/

theorem kind_of_not_readable {s : State} {ea : Byte} (h : readable s ea = false) : s.kind ea = .absent := by
  simpa [readable] using (Bool.or_eq_false_iff.mp h).2

theorem kind_of_not_writable {s : State} {ea : Byte} (h : writable s ea = false) (hk : s.kind ea ≠ .romWindow) :
    s.kind ea = .absent := by
  simpa [writable, hk] using (Bool.or_eq_false_iff.mp h).2

theorem withSource_fault {ea : Byte} {s : State} {f : Fault} {k : Byte → State → State}
    (h : withSource ea s k = .fault f) : s.kind ea = .absent ∧ f = .dataNotImplemented ea := by
  obtain ⟨_, e⟩ | ⟨hr, e⟩ := withSource_cases ea s k <;> rw [e] at h <;> cases h
  exact ⟨kind_of_not_readable hr, rfl⟩

/-- The two causes for which a write to `ea` is not answered (20_memory R63). -/
def WriteFault (s : State) (ea : Byte) (f : Fault) : Prop :=
  (s.kind ea = .absent ∧ f = .dataNotImplemented ea) ∨ (s.kind ea = .romWindow ∧ f = .romWrite ea)

theorem withStore_fault {ea b : Byte} {s : State} {f : Fault} {k : State → State}
    (h : withStore ea b s k = .fault f) : WriteFault s ea f := by
  unfold withStore at h
  obtain ⟨_, e⟩ | ⟨_, hk, e⟩ | ⟨hw, hk, e⟩ := dataWrite_cases ea b s <;> rw [e] at h <;> cases h
  · exact .inr ⟨hk, rfl⟩
  · exact .inl ⟨kind_of_not_writable hw hk, rfl⟩

/-- The read before the write changes no kind of location. -/
theorem withUpdate_fault {ea : Byte} {s : State} {e : Fault} {f : Byte → Byte} {k : Byte → State → State}
    (h : withUpdate ea s f k = .fault e) : WriteFault s ea e := by
  unfold withUpdate at h
  obtain ⟨_, hread⟩ | ⟨hr, hread⟩ := dataRead_cases ea s <;> rw [hread] at h
  · simpa [WriteFault] using withStore_fault h
  · cases h
    exact .inl ⟨kind_of_not_readable hr, rfl⟩

theorem execCall_fault {abc : Addr} {s : State} {f : Fault} (h : execCall abc s = .fault f) :
    s.sp.val = 6 ∧ s.cfg.stackOverflow = .stop ∧ f = .stackOverflow s.pc := by
  unfold execCall at h
  obtain ⟨_, e⟩ | ⟨_, _, e⟩ | ⟨_, _, e⟩ | ⟨h6, hstop, e⟩ := push_cases (s.pc + 2) s <;> rw [e] at h <;> cases h
  exact ⟨h6, hstop, rfl⟩

/-- The reasons for which instruction `i` stops in `s`, each with its cause. -/
inductive FaultCause (i : Instr) (s : State) : Fault → Prop
  | illegal (op : Byte) (hi : i = .illegal op) : FaultCause i s (.illegalOpcode s.pc op)
  | fullStack (abc : Addr) (hi : i = .call abc) (h6 : s.sp.val = 6) (hstop : s.cfg.stackOverflow = .stop) :
      FaultCause i s (.stackOverflow s.pc)
  | absent (ea : Byte) (hea : readAddress i s = some ea ∨ writeAddress i s = some ea)
      (hk : s.kind ea = .absent) : FaultCause i s (.dataNotImplemented ea)
  | window (ea : Byte) (hea : writeAddress i s = some ea) (hk : s.kind ea = .romWindow) :
      FaultCause i s (.romWrite ea)

namespace FaultCause

variable {i : Instr} {s : State} {f : Fault} {ea : Byte}

/-! One lemma for each shape of instruction. -/

theorem of_next {u : State} (h : (.next u : Outcome) = .fault f) : FaultCause i s f := by cases h

theorem of_call {abc : Addr} (h : execCall abc s = .fault f) : FaultCause (.call abc) s f := by
  obtain ⟨h6, hstop, rfl⟩ := execCall_fault h
  exact .fullStack abc rfl h6 hstop

theorem of_withSource {k : Byte → State → State} (h : withSource ea s k = .fault f)
    (hr : readAddress i s = some ea) : FaultCause i s f := by
  obtain ⟨hk, rfl⟩ := withSource_fault h
  exact .absent ea (.inl hr) hk

theorem of_writeFault (h : WriteFault s ea f) (hw : writeAddress i s = some ea) : FaultCause i s f := by
  obtain ⟨hk, rfl⟩ | ⟨hk, rfl⟩ := h
  · exact .absent ea (.inr hw) hk
  · exact .window ea hw hk

/-- The cases are grouped by the shape of the instruction, as the accesses are (`Accesses.of_exec`). -/
theorem of_exec (h : exec i s = .fault f) : FaultCause i s f := by
  cases i with
  | illegal op =>
    cases h
    exact .illegal op rfl
  | call _ => exact of_call h
  | jrnz _ | jrnc _ | jrz _ | jrc _ | jp _ | incReg _ | ldAReg _ | decReg _ | ldRegA _
  | ldiA _ | cpi _ | addi _ | andi _ | subi _ | com | reti | stop | rlc | ret | wait | nop => exact of_next h
  | ldAInd _ | ldADir _ | addInd _ | addDir _ | slaA | subInd _ | subDir _ | clrA
  | cpInd _ | cpDir _ | andInd _ | andDir _ | jrr _ _ _ | jrs _ _ _ =>
    simp only [exec, execSlaA, execClrA, addFrom, subFrom] at h
    exact of_withSource h rfl
  | ldIndA _ | ldDirA _ | ldiDir _ _ | clrDir _ => exact of_writeFault (withStore_fault h) rfl
  | incInd _ | incDir _ | incA | decInd _ | decDir _ | decA | resBit _ _ | setBit _ _ =>
    simp only [exec, execIncInd, execIncDir, execIncA, execDecInd, execDecDir, execDecA, execResBit, execSetBit,
      increment, decrement] at h
    exact of_writeFault (withUpdate_fault h) rfl

end FaultCause

/-! ### The platform's turn (R262, R285) -/

/-- Of the bytes written in order under one key, the last stays. -/
theorem Memory.get_foldl_put (ws : List Host.Cell) (m : Memory) (k : Nat) :
    Memory.get (ws.foldl (fun m c => Memory.put m c.1 c.2) m) k
      = ((ws.reverse.find? (fun c => c.1 == k)).map (fun c => c.2)).getD (Memory.get m k) := by
  induction ws generalizing m with
  | nil => rfl
  | cons w ws ih =>
    rw [List.foldl_cons, ih, Memory.get_put, List.reverse_cons, List.find?_append]
    cases ws.reverse.find? (fun c => c.1 == k) with
    | some c => rfl
    | none => by_cases hk : k = w.1 <;> simp [hk, Ne.symm]

/-! ### What a step does (R264) -/

section
variable {s : State}

theorem boundaryAction_of_acceptable {n : Source} (hreset : s.lines.reset = false)
    (hn : acceptable s = some n) : boundaryAction s = .interrupt n := by
  simp [boundaryAction, hreset, hn]

theorem boundaryAction_of_running (hreset : s.lines.reset = false) (hn : acceptable s = none)
    (hrun : s.run = .running) : boundaryAction s = .execute := by
  simp [boundaryAction, hreset, hn, hrun]

theorem boundaryAction_of_not_running (hreset : s.lines.reset = false) (hn : acceptable s = none)
    (hrun : s.run ≠ .running) : boundaryAction s = .idle := by
  cases hr : s.run with
  | running => exact absurd hr hrun
  | waiting | stopped => simp [boundaryAction, hreset, hn, hr]

theorem step_of_reset (hreset : (sample s).lines.reset = true) : step s = .next (resetEvent (sample s)) := by
  simp only [step, boundaryAction, if_pos hreset]

theorem step_of_acceptable {n : Source} (hreset : (sample s).lines.reset = false)
    (hn : acceptable (sample s) = some n) : step s = enterInterrupt n (sample s) := by
  simp only [step, boundaryAction_of_acceptable hreset hn]

theorem step_of_fetch_ok {i : Instr} (hreset : (sample s).lines.reset = false)
    (hn : acceptable (sample s) = none) (hrun : (sample s).run = .running) (hi : fetch (sample s) = .ok i) :
    step s = exec i (sample s) := by
  simp only [step, boundaryAction_of_running hreset hn hrun, hi]

theorem step_of_fetch_error {f : Fault} (hreset : (sample s).lines.reset = false)
    (hn : acceptable (sample s) = none) (hrun : (sample s).run = .running) (hf : fetch (sample s) = .error f) :
    step s = .fault f := by
  simp only [step, boundaryAction_of_running hreset hn hrun, hf]

theorem step_of_not_running (hreset : (sample s).lines.reset = false) (hn : acceptable (sample s) = none)
    (hrun : (sample s).run ≠ .running) : step s = .next (sample s) := by
  simp only [step, boundaryAction_of_not_running hreset hn hrun]

end

/-! ### The fetch (20_memory R70, 30_encoding R100) -/

/-- The fetch reads as many bytes as the opcode byte calls for, which are those the decoder looks at. -/
theorem fetch_of_decode {s : State} {bs : List Byte} {i : Instr} (hbytes : bytesAt s s.pc bs)
    (hdecode : decode bs = .ok i) : fetch s = .ok i := by
  obtain ⟨op, rest, rfl, hcases⟩ := decode_ok hdecode
  obtain ⟨hop, hrest⟩ := hbytes
  unfold fetch
  rw [hop]
  obtain ⟨hlen, rfl⟩ | ⟨b1, tail, hlen, rfl, rfl⟩ | ⟨b1, b2, tail, hlen, rfl, rfl⟩ := hcases
  · obtain hlen | hlen : lengthOf op = 0 ∨ lengthOf op = 1 := by omega
    · simp only [hlen]
    · simp only [hlen]
  · obtain ⟨hb1, _⟩ := hrest
    simp only [hlen, hb1]
  · obtain ⟨hb1, hb2, _⟩ := hrest
    have hpc : s.pc + 1 + 1 = s.pc + 2 := BitVec.add_assoc s.pc 1 1
    rw [hpc] at hb2
    simp only [hlen, hb1, hb2]

/-! ### Which interrupt is accepted (R263, R265) -/

/-- A statement about #1 to #4 is one about each of them. -/
theorem forall_ne_nmi {p : Source → Prop} :
    (∀ m, m ≠ .nmi → p m) ↔ p .irq1 ∧ p .irq2 ∧ p .irq3 ∧ p .irq4 := by
  constructor
  · intro h
    exact ⟨h _ nofun, h _ nofun, h _ nofun, h _ nofun⟩
  · rintro ⟨h1, h2, h3, h4⟩ m hm
    cases m with
    | nmi => exact absurd rfl hm
    | irq1 => exact h1
    | irq2 => exact h2
    | irq3 => exact h3
    | irq4 => exact h4

/-- The first request is the waiting one of smallest number: for each source a fact about four request bits. -/
theorem firstRequest_eq_some_iff (r : Requests) (n : Source) :
    firstRequest r = some n ↔ n ≠ .nmi ∧ requestOf r n = true
      ∧ ∀ m, m ≠ .nmi → requestOf r m = true → n.number ≤ m.number := by
  rw [forall_ne_nmi]
  obtain ⟨nmi, irq1, irq2, irq3, irq4⟩ := r
  revert nmi irq1 irq2 irq3 irq4
  cases n <;> decide

theorem globalEnable_iff (s : State) : globalEnable s = true ↔ s.irqOption ∉ s.cfg.irqDisabledBy :=
  decide_eq_true_iff

/-- Outside NMI mode the NMI goes before all others; with no NMI asked for, #1 to #4 wait for NORMAL mode and for
the enable; and in NMI mode, which is not NORMAL, nothing is accepted. -/
theorem acceptable_eq_some_iff (s : State) (n : Source) :
    acceptable s = some n ↔
      (n = .nmi ∧ s.lines.requests.nmi = true ∧ s.mode ≠ .nmi)
      ∨ (s.lines.requests.nmi = false ∧ s.mode = .normal ∧ globalEnable s = true
          ∧ firstRequest s.lines.requests = some n) := by
  unfold acceptable
  split_ifs with hnmi hirq
  · obtain ⟨hreq, hmode⟩ := hnmi
    simp [hreq, hmode, @eq_comm _ n]
  · obtain ⟨hmode, hen⟩ := hirq
    have hreq : s.lines.requests.nmi = false := by simpa [hmode] using hnmi
    simp [hreq, hmode, hen]
  · rw [iff_false_left (by simp)]
    tauto

theorem acceptable_nmi_mode {s : State} (h : s.mode = .nmi) : acceptable s = none := by
  simp [acceptable, h]

theorem ne_nmi_of_acceptable {s : State} {n : Source} (h : acceptable s = some n) : s.mode ≠ .nmi := by
  intro hmode
  rw [acceptable_nmi_mode hmode] at h
  cases h

theorem mode_eq_normal_of_acceptable {s : State} {n : Source} (h : acceptable s = some n) (hn : n ≠ .nmi) :
    s.mode = .normal := by
  obtain ⟨hnmi, _⟩ | ⟨_, hmode, _⟩ := (acceptable_eq_some_iff s n).mp h
  · exact absurd hnmi hn
  · exact hmode

theorem eq_nmi_of_acceptable {s : State} {n : Source} (h : acceptable s = some n)
    (hmask : s.mode = .int ∨ globalEnable s = false) : n = .nmi := by
  obtain ⟨hnmi, _⟩ | ⟨_, hmode, hen, _⟩ := (acceptable_eq_some_iff s n).mp h
  · exact hnmi
  · simp [hmode, hen] at hmask

/-! ### Entry to an interrupt (R270) -/

theorem Pushed.of_sameStack {s u t : State} {v : Addr} (h : Pushed s u v) (hstack : SameStack u t) :
    Pushed s t v := by
  obtain ⟨hsp, hstk⟩ := hstack
  rw [Pushed, hsp, hstk]
  exact h

theorem Mode.toMode_saved {m : Mode} (h : m ≠ .nmi) : m.saved.toMode = m := by
  cases m with
  | nmi => exact absurd rfl h
  | normal | int => rfl

theorem vector_eq_of_ne_nmi {n : Source} (h : n ≠ .nmi) : (vector n).toNat = 0xFF8 - 2 * n.number := by
  cases n with
  | nmi => exact absurd rfl h
  | irq1 | irq2 | irq3 | irq4 => rfl

/-- Where the push answers, an entry completes: the push, the mode, the vector, the run state and the acknowledge;
and nothing else changes. -/
theorem enterInterrupt_completes {s : State} (n : Source) (hcan : canPush s = true) :
    Completes (enterInterrupt n s) fun t =>
      Pushed s t s.pc
      ∧ t.mode = (if n = .nmi then .nmi else .int)
      ∧ t.nmiRet = (if n = .nmi then s.mode.saved else s.nmiRet)
      ∧ t.pc = vector n ∧ t.run = .running
      ∧ t.bus = .irqAck n :: s.bus ∧ t.draws = s.draws ∧ t.lines.reset = s.lines.reset
      ∧ SameFlags s t ∧ SameRegs s t ∧ SameData s t ∧ t.prog = s.prog ∧ t.inputs = s.inputs ∧ t.cfg = s.cfg := by
  obtain ⟨u, hpush⟩ := push_ok_of_canPush s.pc hcan
  have hstack : Pushed s u s.pc := push_pushed hpush
  obtain ⟨hflags, hregs, hdata, ⟨hmode, hnmiRet⟩, _, ⟨hprog, hlines, hinputs, hcfg⟩, hbus, hdraws⟩ :=
    push_frame hpush
  refine ⟨acknowledge n { enterMode n u with pc := vector n, run := .running },
    by simp only [enterInterrupt, hpush], hstack.of_sameStack ?stack, by simp, by simp [hmode, hnmiRet], rfl, rfl,
    by simp [hbus], by simp [hdraws], ?reset, ?flags, ?regs, ?data, by simp [hprog], by simp [hinputs],
    by simp [hcfg]⟩
  case stack => simp [SameStack]
  case reset => rw [acknowledge_lines]; split <;> simp [hlines]
  case flags => simpa [SameFlags] using hflags
  case regs => simpa [SameRegs, SameShort] using hregs
  case data => simpa [SameData] using hdata

/-! ### An entry and the return from it (R273) -/

theorem SameFlags.trans {s t u : State} (h : SameFlags s t) (h' : SameFlags t u) : SameFlags s u := by
  obtain ⟨hn, hi, hm⟩ := h
  obtain ⟨hn', hi', hm'⟩ := h'
  exact ⟨hn'.trans hn, hi'.trans hi, hm'.trans hm⟩

theorem SameRegs.trans {s t u : State} (h : SameRegs s t) (h' : SameRegs t u) : SameRegs s u := by
  obtain ⟨ha, hx, hy, hv, hw⟩ := h
  obtain ⟨ha', hx', hy', hv', hw'⟩ := h'
  exact ⟨ha'.trans ha, hx'.trans hx, hy'.trans hy, hv'.trans hv, hw'.trans hw⟩

/-- A pop takes back a push that found a free level, and the levels below are as before. -/
theorem Popped.of_pushed {s t u : State} {v : Addr} (hpop : Popped t u) (hpush : Pushed s t v)
    (hfree : s.sp.val < 6) :
    u.pc = v ∧ u.sp = s.sp ∧ ∀ m, 1 ≤ m → m ≤ s.sp.val → u.stk.level m = s.stk.level m := by
  obtain ⟨hpushed, _⟩ := hpush
  obtain ⟨hsp, htop, hbelow⟩ := hpushed hfree
  obtain ⟨hstk, hpopped, _⟩ := hpop
  obtain ⟨hpc, hsp'⟩ := hpopped (by omega)
  refine ⟨by rw [hpc, hsp, htop], Fin.ext (by omega), fun m _ hm => ?_⟩
  rw [hstk]
  exact hbelow m (by omega)

/-- Only NORMAL mode is left for #1 to #4, and the mode left for the NMI is in `nmi_ret`. -/
theorem returnMode_after_entry {s t : State} {n : Source} (hn : acceptable s = some n)
    (hmode : t.mode = if n = .nmi then .nmi else .int)
    (hnmiRet : t.nmiRet = if n = .nmi then s.mode.saved else s.nmiRet) : returnMode t = s.mode := by
  by_cases hnmi : n = .nmi
  · rw [if_pos hnmi] at hmode hnmiRet
    rw [returnMode, hmode, hnmiRet]
    exact Mode.toMode_saved (ne_nmi_of_acceptable hn)
  · rw [if_neg hnmi] at hmode
    rw [returnMode, hmode, mode_eq_normal_of_acceptable hn hnmi]

/-! ### WAIT and STOP in NMI mode (R281) -/

/-- No reset is asserted, and none is among the inputs to come. -/
def NoResetComing (s : State) : Prop := s.lines.reset = false ∧ ∀ i ∈ s.inputs, i.lines.reset = false

/-- The platform's turn uses up an entry or none, so what is still to come was to come before. -/
theorem NoResetComing.sample {s : State} (h : NoResetComing s) : NoResetComing (sample s) := by
  obtain ⟨hline, hinputs⟩ := h
  cases hs : s.inputs with
  | nil =>
    rw [sample_nil hs]
    exact ⟨hline, hinputs⟩
  | cons i rest =>
    rw [sample_cons hs]
    rw [hs] at hinputs
    exact ⟨hinputs i List.mem_cons_self, fun j hj => hinputs j (List.mem_cons_of_mem i hj)⟩

/-- In NMI mode nothing is accepted, so a core that waits or is stopped there goes on doing so. -/
theorem step_of_nmi_mode {s : State} (hmode : s.mode = .nmi) (hrun : s.run ≠ .running) (hreset : NoResetComing s) :
    step s = .next (sample s) := by
  obtain ⟨hline, _⟩ := hreset.sample
  exact step_of_not_running hline (acceptable_nmi_mode (by rwa [sample_mode])) (by rwa [sample_run])

theorem run_succ_of_step (M : Host.Core) {s t : M.State} (k : Nat) (h : M.step s = .next t) :
    M.run (k + 1) s = M.run k t := by
  rw [Host.Core.run, h]

/-- By induction on the steps: each is a turn of the platform, which touches nothing of the core's own. -/
theorem run_of_nmi_mode (k : Nat) {s : State} (hmode : s.mode = .nmi) (hrun : s.run ≠ .running)
    (hreset : NoResetComing s) :
    ∃ t, Host.Core.run core k s = .next t ∧ t.run = s.run ∧ t.mode = .nmi ∧ t.pc = s.pc
      ∧ SameRegs s t ∧ SameFlags s t ∧ SameStack s t := by
  induction k generalizing s with
  | zero => exact ⟨s, rfl, rfl, hmode, rfl, sameRegs_refl s, ⟨rfl, rfl, rfl⟩, rfl, rfl⟩
  | succ k ih =>
    obtain ⟨t, ht, hsame⟩ := ih (s := sample s) (by rwa [sample_mode]) (by rwa [sample_run]) hreset.sample
    refine ⟨t, (run_succ_of_step core k (step_of_nmi_mode hmode hrun hreset)).trans ht, ?_⟩
    simpa [SameRegs, SameShort, SameFlags, SameStack] using hsame

end Sys2Proof.Machine

open Sys2Proof Sys2Proof.Machine

/-- Settles O41, by the shapes of the instructions. -/
theorem faultsNameTheirCause : Obligations.FaultsNameTheirCause := by
  intro i s f hexec
  cases FaultCause.of_exec hexec with
  | illegal op hi => exact .inl ⟨op, hi, rfl⟩
  | fullStack abc hi h6 hstop => exact .inr (.inl ⟨abc, hi, h6, hstop, rfl⟩)
  | absent ea hea hk => exact .inr (.inr (.inl ⟨ea, hea, hk, rfl⟩))
  | window ea hea hk => exact .inr (.inr (.inr ⟨ea, hea, hk, rfl⟩))

/-- Settles O53, from what the platform's turn leaves and from the cases of a step. -/
theorem stepOrder : Obligations.StepOrder := by
  refine fun s => ⟨sample_nil, fun i rest hinputs => ?turn, step_of_reset, fun hreset => ?noReset⟩
  case turn =>
    rw [sample_cons hinputs]
    exact ⟨rfl, Memory.get_foldl_put i.writes s.data⟩
  case noReset =>
    exact ⟨fun _ => step_of_acceptable hreset, fun hn => ⟨fun _ => step_of_fetch_ok hreset hn,
      fun _ => step_of_fetch_error hreset hn, step_of_not_running hreset hn⟩⟩

/-- Settles O51: what the decoder reads at the program counter is what is fetched there. -/
theorem stepRunsTheDecodedInstruction : Obligations.StepRunsTheDecodedInstruction :=
  fun _ _ _ hreset hn hrun hbytes hdecode => step_of_fetch_ok hreset hn hrun (fetch_of_decode hbytes hdecode)

/-- Settles O54: the enable is the register's value, and the first request the one of smallest number. -/
theorem interruptAcceptance : Obligations.InterruptAcceptance := by
  intro s n
  rw [acceptable_eq_some_iff, globalEnable_iff, firstRequest_eq_some_iff]
  tauto

/-- Settles O55: the entry of a source other than the NMI leaves `nmi_ret`; the NMI's saves the mode there. -/
theorem interruptEntry : Obligations.InterruptEntry := by
  intro s n hcan hnmi
  obtain ⟨t, ht, hstack, hmode, hnmiRet, hpc, hrest⟩ := enterInterrupt_completes n hcan
  refine ⟨t, ht, hstack, fun hn => ?nmi, fun hn => ?irq, hrest⟩
  case nmi =>
    rw [if_pos hn] at hmode hnmiRet
    subst hn
    exact ⟨hmode, by rw [hnmiRet, Mode.toMode_saved (hnmi rfl)], hpc⟩
  case irq =>
    rw [if_neg hn] at hmode hnmiRet
    exact ⟨hmode, hnmiRet, by rw [hpc, vector_eq_of_ne_nmi hn]⟩

/-- Settles O57: a core that is not running takes the reset and the entry only, and the entry is that of O55. -/
theorem interruptEndsWaitAndStop : Obligations.InterruptEndsWaitAndStop := by
  refine ⟨fun s hrun hreset hn => step_of_not_running hreset hn (by rwa [sample_run]),
    fun s n _ hreset hn hcan => ?_⟩
  have hcan' : canPush (sample s) = true := by simpa [canPush] using hcan
  obtain ⟨t, ht, hstack, _, _, hpc, hrun, _, _, _, hflags, hregs, _⟩ := enterInterrupt_completes n hcan'
  refine ⟨t, (step_of_acceptable hreset hn).trans ht, hrun, hpc, ?_, ?_, ?_⟩
  · simpa [Pushed] using hstack
  · simpa [SameRegs, SameShort] using hregs
  · simpa [SameFlags] using hflags

/-- Settles O59: the return pops what the entry pushed and goes back to the mode the entry left; beyond that
neither touches what a program can see. -/
theorem entryThenRetiRestores : Obligations.EntryThenRetiRestores := by
  intro s n hn hfree
  obtain ⟨t, ht, hstack, hmode, hnmiRet, _, _, _, _, _, hflags, hregs, hdata, _⟩ :=
    enterInterrupt_completes (s := s) n (by simp [canPush, hfree])
  obtain ⟨hflags', hregs', hdata', _⟩ := popPc_frame t
  obtain ⟨hpc, hsp, hlevels⟩ := (popPc_popped t).of_pushed hstack hfree
  exact ⟨t, returnFromInterrupt t, ht, rfl, hpc, returnMode_after_entry hn hmode hnmiRet, hsp, hlevels,
    hflags.trans hflags', hregs.trans hregs', hdata.trans hdata'⟩

/-- Settles O58, by induction on the number of steps. -/
theorem waitInNmiModeEndsOnlyByReset : Obligations.WaitInNmiModeEndsOnlyByReset :=
  ⟨fun _ _ hmask hn => eq_nmi_of_acceptable hn hmask,
    fun k _ hmode hrun hline hinputs => run_of_nmi_mode k hmode hrun ⟨hline, hinputs⟩⟩
end

section
/-! PROOFS. Reset: the five values of R310, right after reset and in a step that takes the reset. -/

open Sys2Proof Sys2Proof.Machine

/-- Settles O60: `State.reset` is written out with the five values, and a step with reset asserted is the
reset event, which gives them to any state. -/
theorem resetState : Obligations.ResetState := by
  refine ⟨⟨rfl, rfl, rfl, rfl, rfl⟩, fun s hreset => ⟨resetEvent (sample s), step_of_reset hreset, ?_⟩⟩
  exact ⟨resetEvent_pc _, resetEvent_mode _, resetEvent_nmiRet _, congrArg Fin.val (resetEvent_sp _),
    resetEvent_run _⟩
end

section
/-! SUPPORT. Stores and banked addresses said as the statements say them: what a canonical data store lists (log 7),
the byte a window address shows (20_memory R65), and where a program byte stands and is placed (R69, R70). -/

namespace Sys2Proof.Machine

/-! ### What a canonical data store lists -/

theorem Memory.rising_iff_pairwise (m : Memory) : Memory.rising m = true ↔ m.Pairwise fun c d => c.1 < d.1 := by
  induction m with
  | nil => simp [Memory.rising]
  | cons c m ih => rw [Memory.rising_cons, List.pairwise_cons, ih]

theorem Memory.mem_of_find {m : Memory} {k : Nat} {v : Byte} (h : Memory.find m k = some v) : (k, v) ∈ m := by
  induction m with
  | nil => cases h
  | cons c m ih =>
    unfold Memory.find at h
    split at h
    case isTrue hk => cases h; subst hk; exact List.mem_cons_self
    case isFalse => exact List.mem_cons_of_mem c (ih h)

theorem Memory.find_of_mem {m : Memory} {c : Host.Cell} (hm : Memory.rising m = true) (h : c ∈ m) :
    Memory.find m c.1 = some c.2 := by
  induction m with
  | nil => cases h
  | cons d m ih =>
    obtain ⟨hd, hrising⟩ := (Memory.rising_cons d m).mp hm
    obtain rfl | hmem := List.mem_cons.mp h
    · exact if_pos rfl
    · exact (if_neg (hd c hmem).ne).trans (ih hrising hmem)

/-- What a canonical store lists can be told from its reads: the bytes that differ from what an unlisted key reads
as. -/
theorem Memory.mem_iff_get {m : Memory} (hm : Memory.wf m = true) (c : Host.Cell) :
    c ∈ m ↔ Memory.get m c.1 = c.2 ∧ c.2 ≠ unwrittenByte := by
  obtain ⟨hrising, hwritten⟩ := (Memory.wf_iff m).mp hm
  constructor
  · intro hc
    exact ⟨by rw [Memory.get, Memory.find_of_mem hrising hc, Option.getD_some], hwritten c hc⟩
  · rintro ⟨hget, hne⟩
    unfold Memory.get at hget
    cases hf : Memory.find m c.1 with
    | none => rw [hf] at hget; exact absurd hget.symm hne
    | some v => rw [hf] at hget; cases hget; exact Memory.mem_of_find hf

theorem Memory.eq_of_get {m n : Memory} (hm : Memory.wf m = true) (hn : Memory.wf n = true)
    (h : ∀ k, Memory.get m k = Memory.get n k) : m = n := by
  have hirrefl : Std.Irrefl fun c d : Host.Cell => c.1 < d.1 := ⟨fun c => lt_irrefl c.1⟩
  obtain ⟨hrm, _⟩ := (Memory.wf_iff m).mp hm
  obtain ⟨hrn, _⟩ := (Memory.wf_iff n).mp hn
  have hmem (c : Host.Cell) : c ∈ m ↔ c ∈ n := by rw [Memory.mem_iff_get hm, Memory.mem_iff_get hn, h]
  exact ((Memory.rising_iff_pairwise m).mp hrm).eq_of_mem_iff ((Memory.rising_iff_pairwise n).mp hrn) hmem

/-! ### The data ROM window (20_memory R65) -/

/-- The addresses of the window, 40h to 7Fh, lie below the core's own. -/
theorem coreReg_window {k : Nat} (hk : k < 64) : coreReg (BitVec.ofNat 8 (0x40 + k)) = none := by
  have hwindow : ∀ k < 64, coreReg (BitVec.ofNat 8 (0x40 + k)) = none := by decide
  exact hwindow k hk

/-- The window's start is a multiple of 64, so the six low bits of the address are the offset in the block. -/
theorem windowKey_window (s : State) {k : Nat} (hk : k < 64) :
    windowKey s (BitVec.ofNat 8 (0x40 + k)) = 64 * s.cfg.windowBlocks.getD s.windowSel.toNat 0 + k := by
  rw [windowKey, BitVec.toNat_ofNat]
  omega

theorem platformByte_romWindow {s : State} {ea b : Byte} (hk : s.kind ea = .romWindow)
    (hb : Memory.find s.prog (windowKey s ea) = some b) : platformByte s ea = b := by
  simp only [platformByte, hk, hb, Option.getD_some]

/-! ### Program space and its pages (R69, R70) -/

theorem progRead_eq_ok_iff (s : State) (addr : Addr) (b : Byte) :
    progRead addr s = .ok b ↔ Memory.find s.prog (progKey s addr) = some b := by
  unfold progRead
  cases Memory.find s.prog (progKey s addr) <;> simp

theorem progKey_of_lt {addr : Addr} (s : State) (h : addr.toNat < 0x800) :
    progKey s addr = addr.toNat + 4096 * s.cfg.progPages.getD s.progBank.toNat 0 := if_pos h

theorem progKey_of_le {addr : Addr} (s : State) (h : 0x800 ≤ addr.toNat) : progKey s addr = addr.toNat :=
  if_neg (Nat.not_lt.mpr h)

/-- Whatever the page, the address is what is left of its key modulo 4096. -/
theorem progKey_mod (s : State) (addr : Addr) : progKey s addr % 4096 = addr.toNat := by
  have := addr.isLt
  unfold progKey
  split <;> omega

theorem progKey_injective (s : State) : Function.Injective (progKey s) := fun addr addr' h =>
  BitVec.eq_of_toNat_eq (by rw [← progKey_mod s addr, h, progKey_mod])

/-! ### Placing bytes in program space (log 8) -/

theorem placeProgram_eq (s : State) (addr : Addr) (bs : List Byte) :
    placeProgram s addr bs = { s with prog := (placeProgram s addr bs).prog } := by
  induction bs generalizing s addr with
  | nil => rfl
  | cons b bs ih =>
    unfold placeProgram
    rw [ih]

/-- The state with the byte at one program address set. -/
def State.setProgByte (s : State) (addr : Addr) (b : Byte) : State :=
  { s with prog := Memory.insert s.prog (progKey s addr) b }

theorem placeProgram_cons (s : State) (addr : Addr) (b : Byte) (bs : List Byte) :
    placeProgram s addr (b :: bs) = placeProgram (s.setProgByte addr b) (addr + 1) bs := rfl

theorem progRead_setProgByte_same (s : State) (addr : Addr) (b : Byte) :
    progRead addr (s.setProgByte addr b) = .ok b :=
  (progRead_eq_ok_iff _ addr b).mpr (Memory.find_insert_same s.prog (progKey s addr) b)

theorem progRead_setProgByte_other {addr addr' : Addr} (s : State) (b : Byte) (h : addr' ≠ addr) :
    progRead addr' (s.setProgByte addr b) = progRead addr' s := by
  have hfind := Memory.find_insert_other s.prog b ((progKey_injective s).ne h)
  unfold progRead
  rw [← hfind]
  rfl

theorem add_ofNat_succ (addr : Addr) (n : Nat) :
    addr + BitVec.ofNat 12 (n + 1) = addr + 1 + BitVec.ofNat 12 n := by
  rw [Nat.add_comm, BitVec.ofNat_add, ← BitVec.add_assoc]
  rfl

theorem ne_add_ofNat (addr : Addr) {n : Nat} (hpos : 0 < n) (hlt : n < 4096) :
    addr ≠ addr + BitVec.ofNat 12 n := fun heq => by
  have hnat := congrArg BitVec.toNat heq
  rw [BitVec.toNat_add, BitVec.toNat_ofNat] at hnat
  omega

/-- An address that none of the bytes is placed at reads as before. -/
theorem progRead_placeProgram_other {addr addr' : Addr} (s : State) (bs : List Byte)
    (h : ∀ n < bs.length, addr' ≠ addr + BitVec.ofNat 12 n) :
    progRead addr' (placeProgram s addr bs) = progRead addr' s := by
  induction bs generalizing s addr with
  | nil => rfl
  | cons b bs ih =>
    have hhead : addr' ≠ addr := by simpa using h 0 (Nat.zero_lt_succ _)
    have htail : ∀ n < bs.length, addr' ≠ addr + 1 + BitVec.ofNat 12 n := fun n hn => by
      rw [← add_ofNat_succ]
      exact h (n + 1) (Nat.succ_lt_succ hn)
    rw [placeProgram_cons, ih _ htail, progRead_setProgByte_other s b hhead]

/-- As long as they do not run round the whole of program space, bytes stand where they were placed. -/
theorem bytesAt_placeProgram (s : State) (addr : Addr) {bs : List Byte} (h : bs.length ≤ 4096) :
    bytesAt (placeProgram s addr bs) addr bs := by
  induction bs generalizing s addr with
  | nil => trivial
  | cons b bs ih =>
    rw [List.length_cons] at h
    refine ⟨?_, ih (s.setProgByte addr b) (addr + 1) (by omega)⟩
    have hapart : ∀ n < bs.length, addr ≠ addr + 1 + BitVec.ofNat 12 n := fun n hn => by
      rw [← add_ofNat_succ]
      exact ne_add_ofNat addr n.succ_pos (by omega)
    rw [placeProgram_cons, progRead_placeProgram_other _ bs hapart, progRead_setProgByte_same]

/-! ### The word placed for the next step (95_test_vectors section 0) -/

theorem decodeTableWord_eq_some_iff (nbits w : Nat) (i : Instr) :
    decodeTableWord nbits w = some i ↔ decode (wordBytes nbits w) = .ok i := by
  unfold decodeTableWord
  cases decode (wordBytes nbits w) <;> simp

theorem acceptable_of_quiet {s : State} (h : s.lines = .quiet) : acceptable s = none := by
  simp [acceptable, firstRequest, h, Lines.quiet, Requests.none]

theorem withFetchWord_eq (s : State) (nbits w : Nat) :
    s.withFetchWord nbits w = { s with
      run := .running, lines := .quiet, inputs := [], prog := (s.withFetchWord nbits w).prog } :=
  placeProgram_eq _ s.pc (wordBytes nbits w)

section
variable (s : State) (nbits w : Nat)

theorem withFetchWord_run : (s.withFetchWord nbits w).run = .running := by rw [withFetchWord_eq]

theorem withFetchWord_lines : (s.withFetchWord nbits w).lines = .quiet := by rw [withFetchWord_eq]

theorem withFetchWord_pc : (s.withFetchWord nbits w).pc = s.pc := by rw [withFetchWord_eq]

theorem sample_withFetchWord : sample (s.withFetchWord nbits w) = s.withFetchWord nbits w :=
  sample_nil (by rw [withFetchWord_eq])

theorem bytesAt_withFetchWord :
    bytesAt (s.withFetchWord nbits w) (s.withFetchWord nbits w).pc (wordBytes nbits w) := by
  rw [withFetchWord_pc]
  exact bytesAt_placeProgram _ s.pc (by simp [wordBytes])

end

end Sys2Proof.Machine

open Sys2Proof Sys2Proof.Machine

/-- Settles O10: a canonical store lists just the keys that do not read as an unlisted one, in rising order. -/
theorem canonicalStoresAreEqual : Obligations.CanonicalStoresAreEqual := fun _ _ => Memory.eq_of_get

/-- Settles O11: the read of a window address is a call to the platform, which answers from the block selected. -/
theorem windowReadsSelectedBlock : Obligations.WindowReadsSelectedBlock := by
  intro s k b hlt hk hb
  rw [← windowKey_window s hlt] at hb
  have hread := dataRead_of_present (s := s) (coreReg_window hlt) (by simp [hk])
  rw [platformByte_romWindow hk hb] at hread
  exact ⟨_, hread, sameRegs_refl s, ⟨fun _ => rfl, rfl, rfl, rfl, rfl⟩,
    ⟨rfl, rfl⟩, ⟨rfl, rfl⟩, rfl, ⟨rfl, rfl, rfl, rfl⟩⟩

/-- Settles O12: only the key of a lower address has the page in it, and its remainder modulo 4096 is the address
in either half. -/
theorem programPagingIsLowerHalfOnly : Obligations.ProgramPagingIsLowerHalfOnly := by
  refine ⟨fun s v addr h => ?upper, fun s addr b h hb => ?lower, fun s addr addr' h => progKey_injective s h⟩
  case upper => rw [progRead, progRead, progKey_of_le _ h, progKey_of_le _ h]
  case lower => rwa [progRead_eq_ok_iff, progKey_of_lt s h]

/-- Settles O52: with no line asserted and no input to come, the step fetches the bytes placed. -/
theorem placedInstructionRunsNext : Obligations.PlacedInstructionRunsNext := by
  intro s nbits w i hi
  have hlines := withFetchWord_lines s nbits w
  have hbytes := bytesAt_withFetchWord s nbits w
  have hdecode := (decodeTableWord_eq_some_iff nbits w i).mp hi
  have hstep := stepRunsTheDecodedInstruction (s.withFetchWord nbits w) (wordBytes nbits w) i
  rw [sample_withFetchWord] at hstep
  exact hstep (congrArg Lines.reset hlines) (acceptable_of_quiet hlines) (withFetchWord_run s nbits w) hbytes hdecode
end

section
/-! SUPPORT. The invariant (20_memory R64, R65; 00_scope R8): a step writes to the data store through `Memory.put`
only, which keeps its canonical form, and leaves program space and the configuration as they are. -/

namespace Sys2Proof.Machine

theorem State.wf_iff (s : State) :
    s.wf = true ↔ Memory.wf s.data = true ∧ Memory.rising s.prog = true ∧ s.cfg.wf = true := by
  simp [State.wf, and_assoc]

/-! ### The canonical form of the data store -/

theorem push_data {v : Addr} {s u : State} (h : push v s = .ok u) : u.data = s.data := by rw [push_ok h]

theorem popPc_data (s : State) : (popPc s).data = s.data := by rw [popPc_eq]

theorem setCore_data (s : State) (r : CoreReg) (b : Byte) : (s.setCore r b).data = s.data := by
  cases r with
  | acc => rfl
  | short r => exact State.setReg_data s r b

/-- A write to a location that is no plain byte leaves the data store alone. -/
theorem afterWrite_data (s : State) (ea b : Byte) :
    (afterWrite s ea b).data = if inStore s ea then Memory.put s.data (dataKey s ea) b else s.data := by
  split
  case isTrue h => rw [afterWrite_of_inStore b h]
  case isFalse h =>
    rw [inStore_iff] at h
    unfold afterWrite
    cases hc : coreReg ea with
    | some r => exact setCore_data s r b
    | none => unfold platformStore; cases hk : s.kind ea <;> simp [hc, hk] at h ⊢

/-- `t` has a canonical data store if `s` has. -/
def KeepsDataWf (s t : State) : Prop := Memory.wf s.data = true → Memory.wf t.data = true

namespace KeepsDataWf

variable {s t u : State} {ea : Byte}

theorem of_data_eq (h : t.data = s.data) : KeepsDataWf s t := fun hs => by rwa [h]

theorem trans (h : KeepsDataWf s t) (h' : KeepsDataWf t u) : KeepsDataWf s u := h' ∘ h

theorem afterWrite (s : State) (ea b : Byte) : KeepsDataWf s (afterWrite s ea b) := by
  intro hs
  rw [afterWrite_data]
  split
  · exact Memory.wf_put _ b hs
  · exact hs

/-! One lemma for each shape of instruction: only a write can change the data store. -/

theorem of_next (h : (.next u : Outcome) = .next t) (hk : u.data = s.data) : KeepsDataWf s t := by
  cases h
  exact of_data_eq hk

theorem of_withSource {k : Byte → State → State} (h : withSource ea s k = .next t)
    (hk : ∀ v u, (k v u).data = u.data) : KeepsDataWf s t := by
  obtain ⟨_, rfl⟩ := withSource_next h
  exact of_data_eq (by rw [hk, afterRead_data])

theorem of_withStore {b : Byte} {k : State → State} (h : withStore ea b s k = .next t)
    (hk : ∀ u, (k u).data = u.data) : KeepsDataWf s t := by
  obtain ⟨_, rfl⟩ := withStore_next h
  exact (afterWrite s ea b).trans (of_data_eq (hk _))

theorem of_withUpdate {f : Byte → Byte} {k : Byte → State → State} (h : withUpdate ea s f k = .next t)
    (hk : ∀ v u, (k v u).data = u.data) : KeepsDataWf s t := by
  obtain ⟨_, rfl⟩ := withUpdate_next h
  exact (of_data_eq (afterRead_data s ea)).trans ((afterWrite _ ea _).trans (of_data_eq (hk _ _)))

theorem of_call {abc : Addr} (h : execCall abc s = .next t) : KeepsDataWf s t := by
  unfold execCall at h
  cases hp : push (s.pc + 2) s with
  | error f => rw [hp] at h; cases h
  | ok u => rw [hp] at h; exact of_next h ((State.setPc_data u abc).trans (push_data hp))

/-- The cases are grouped by the shape of the instruction, as the accesses are (`Accesses.of_exec`). -/
theorem of_exec {i : Instr} (h : exec i s = .next t) : KeepsDataWf s t := by
  cases i with
  | illegal _ => cases h
  | call _ => exact of_call h
  | ret | reti => exact of_next h (popPc_data s)
  | nop | jp _ | stop | wait => exact of_next h rfl
  | jrnz _ | jrnc _ | jrz _ | jrc _ => exact of_next h (by split <;> rfl)
  | com | rlc | ldiA _ | addi _ | subi _ | andi _ | cpi _ | ldAReg _ | ldRegA _ | incReg _ | decReg _ =>
    exact of_next h (by simp [loadA, addA, subA, compareA, andA])
  | ldAInd _ | ldADir _ | addInd _ | addDir _ | slaA | subInd _ | subDir _ | clrA
  | cpInd _ | cpDir _ | andInd _ | andDir _ =>
    simp only [exec, execLdAInd, execLdADir, execAddInd, execAddDir, execSlaA, execSubInd, execSubDir,
      execClrA, execCpInd, execCpDir, execAndInd, execAndDir, loadFrom, addFrom, subFrom, compareFrom,
      andFrom] at h
    exact of_withSource h fun v u => by simp [loadA, addA, subA, compareA, andA]
  | jrr _ _ _ | jrs _ _ _ => exact of_withSource h fun v u => by dsimp only; split <;> simp
  | ldIndA _ | ldDirA _ | ldiDir _ _ | clrDir _ => exact of_withStore h fun u => by simp
  | incInd _ | incDir _ | incA | decInd _ | decDir _ | decA | resBit _ _ | setBit _ _ =>
    simp only [exec, execIncInd, execIncDir, execIncA, execDecInd, execDecDir, execDecA, execResBit,
      execSetBit, increment, decrement] at h
    exact of_withUpdate h fun v u => by simp

theorem of_enterInterrupt {n : Source} (h : enterInterrupt n s = .next t) : KeepsDataWf s t := by
  obtain ⟨u, hp, rfl⟩ := enterInterrupt_next h
  exact of_data_eq (by simp [push_data hp])

/-- The platform's turn may write to the store; of the four things a step does after it, only an instruction may. -/
theorem of_step (h : step s = .next t) : KeepsDataWf s t := by
  have hsample : KeepsDataWf s (sample s) := sample_data_wf
  refine hsample.trans ?_
  rcases step_cases s with ⟨_, e⟩ | ⟨n, _, e⟩ | ⟨i, _, _, e⟩ | ⟨f, _, _, e⟩ | ⟨_, e⟩ <;> rw [e] at h
  case inl => exact of_next h (resetEvent_data _)
  case inr.inl => exact of_enterInterrupt h
  case inr.inr.inl => exact of_exec h
  case inr.inr.inr.inl => cases h
  case inr.inr.inr.inr => exact of_next h rfl

end KeepsDataWf

end Sys2Proof.Machine

open Sys2Proof Sys2Proof.Machine

/-- Settles O49: the data store by `KeepsDataWf.of_step`, program space and the configuration by O48. -/
theorem stepKeepsTheStateWellFormed : Obligations.StepKeepsTheStateWellFormed := by
  intro s t hwf hstep
  obtain ⟨hdata, hrising, hcfg⟩ := (State.wf_iff s).mp hwf
  obtain ⟨hprog, hcfg'⟩ := noStepWritesProgramSpace s t hstep
  exact (State.wf_iff t).mpr ⟨KeepsDataWf.of_step hstep hdata, by rwa [hprog], by rwa [hcfg']⟩

/-- Settles O50: nothing is stored at reset, and the one region of the test platform is plain RAM. -/
theorem resetStateIsWellFormed : Obligations.ResetStateIsWellFormed :=
  (State.wf_iff State.reset).mpr ⟨Memory.reset_wf, Memory.reset_rising, rfl⟩
end

section
/-! SUPPORT. Where a push finds no level (10_state R27, log 10), and which requests an entry leaves (60_exceptions
R262, log 16). -/

namespace Sys2Proof.Machine

theorem execCall_of_not_canPush {s : State} (abc : Addr) (h : canPush s = false) :
    execCall abc s = .fault (.stackOverflow s.pc) := by
  rw [execCall, push_error_of_not_canPush _ h]

theorem enterInterrupt_of_not_canPush {s : State} (n : Source) (h : canPush s = false) :
    enterInterrupt n s = .fault (.stackOverflow s.pc) := by
  rw [enterInterrupt, push_error_of_not_canPush _ h]

theorem requestOf_dropRequest (r : Requests) (n m : Source) :
    requestOf (dropRequest r n) m = if m = n then false else requestOf r m := by
  cases n <;> cases m <;> rfl

theorem requestOf_acknowledge (s : State) (n m : Source) :
    requestOf (acknowledge n s).lines.requests m
      = if m = n ∧ requestOf s.cfg.edge n = true then false else requestOf s.lines.requests m := by
  rw [acknowledge_lines]
  cases hedge : requestOf s.cfg.edge n with
  | true => simp [requestOf_dropRequest]
  | false => simp

end Sys2Proof.Machine

open Sys2Proof Sys2Proof.Machine

/-- Settles O56: before its acknowledge an entry touches neither the lines nor the configuration. -/
theorem acknowledgeDropsOnlyAnEdgeRequest : Obligations.AcknowledgeDropsOnlyAnEdgeRequest := by
  intro s t n hentry m
  obtain ⟨u, hpush, rfl⟩ := enterInterrupt_next hentry
  obtain ⟨_, _, _, _, _, ⟨_, hlines, _, hcfg⟩, _⟩ := push_frame hpush
  rw [requestOf_acknowledge]
  simp only [enterMode_lines, enterMode_cfg, hlines, hcfg]

/-- Settles O33: these are the states in which no push answers, and both begin with one. -/
theorem seventhPushStopsWhereConfigured : Obligations.SeventhPushStopsWhereConfigured := by
  intro s h6 hstop
  have hfull : canPush s = false := (canPush_eq_false_iff s).mpr ⟨h6, hstop⟩
  exact ⟨fun abc => execCall_of_not_canPush abc hfull, fun n => enterInterrupt_of_not_canPush n hfull⟩
end
